-- ==== Sys2Proof/Word.lean ====
section
/-! DEFINITION. The word types of the block: every datapath value and register is an unsigned 32-bit word
(00_scope.md rules R8, R11), and a buffer datum is one byte (20_memory.md rule R55). -/

namespace Sys2Proof

/-- `u32` of rule R11: NATIVE_BITS = 32 (rule R8). -/
abbrev Word := BitVec 32

/-- `u8` of rule R11. -/
abbrev Byte := BitVec 8

end Sys2Proof
end

