-- ==== Sys2Proof/Config.lean ====
section
/-! DEFINITION. The parameters the spec leaves to the platform (00_scope.md rule R9, 20_memory.md rules R55, R57, R59) and
the free value of a racing or device read (20_memory.md rule R63). `Config` is plain data held in State and changed by no
step, so that a claim over all states is a claim over all platforms. -/

namespace Sys2Proof

/-- PARAM_CHECK of rule R9: what BUILD does with POLY, INIT or XOROUT bits above the width (rule R105). -/
inductive ParamCheck where
  | truncate
  | reject
  deriving DecidableEq, Repr

/-- What answers the engine's read port at an address. -/
inductive RegionKind where
  /-- The passive byte store of rule R20. -/
  | memory
  /-- Reads have side effects or values of their own (rule R57): each read gives a free byte (log 7). -/
  | device
  /-- Reads answer `BusError` (rule R55). -/
  | busError
  deriving DecidableEq, Repr

/-- `size` buffer addresses from `base` on that answer as `kind`. -/
structure Region where
  base : Nat
  size : Nat
  kind : RegionKind
  deriving DecidableEq, Repr

/-- The parameters of rule R9 and of the buffer-memory oracle (rule R55, 92_eei_decisions.md D18). -/
structure Config where
  /-- BLOCK_BASE (rule R59), an address of the host bus; the bus width is not the block's, so a Nat (log 4). -/
  blockBase : Nat
  /-- PARAM_CHECK. -/
  paramCheck : ParamCheck
  /-- The platform's buffer map, first match wins; an address in no region is plain memory (log 6). -/
  regions : List Region
  deriving DecidableEq, Repr

/-- The values `State.reset` carries: BLOCK_BASE 0 and no special region are DESIGN CHOICE (log 4, log 6); TRUNCATE is
the default of rule R9. -/
def Config.default : Config := { blockBase := 0, paramCheck := .truncate, regions := [] }

/-- The n-th free draw of any `u8` (rule R63). It has no body: nothing can be proved of its values. -/
opaque Config.freeByte : Nat → Byte

end Sys2Proof
end

