-- ==== Sys2Proof/Syntax.lean ====
section
/-! DEFINITION. The block's commands (30_encoding.md rules R70, R71, R74), the register names of its window (10_state.md
rule R25) and the host operations of 30_encoding.md rule R76 with the outside events of rules R63 and R180. -/

namespace Sys2Proof

/-- The commands, one constructor per row of opcode_table.json. A command carries no operand field (rule R70). -/
inductive Instr where
  | nop
  | build
  | compute
  deriving DecidableEq, Repr

/-- The fields of the 32-bit command word (rule R70). -/
structure CommandWord where
  /-- RSVD, bits 31..4, must be 0. -/
  rsvd : BitVec 28
  /-- OPCODE, bits 3..0. -/
  opcode : BitVec 4
  deriving DecidableEq, Repr

/-- Why a command word is illegal (rule R73). -/
inductive Illegal where
  /-- RSVD ≠ 0, whatever the OPCODE. -/
  | reservedBits
  /-- RSVD = 0 and OPCODE is 0x3 .. 0xF. -/
  | reservedOpcode
  deriving DecidableEq, Repr

/-- What a word written to CMD decodes to: a command, or ILLEGAL with its reason (rule R74). -/
inductive Decoded where
  | command (i : Instr)
  | illegal (why : Illegal)
  deriving DecidableEq, Repr

/-- The host-visible registers (rule R25). -/
inductive Reg where
  | cmd | status | width | mode | poly | init | xorout
  | bufBase | bufSize | offset | length | result
  | tblIndex | tblData | mask | cfg | cfgPoly | cfgInit | cfgXorout
  /-- Offsets 0x4C .. 0xFC (rule R38). -/
  | reserved
  deriving DecidableEq, Repr

/-- The width of a register-port access (rule R53). -/
inductive AccessSize where
  | byte
  | half
  | word
  deriving DecidableEq, Repr

inductive AccessKind where
  | read
  | write (value : Word)
  deriving DecidableEq, Repr

/-- One bus transaction of the host: the `(kind, offset, data)` of rule R76 at a host bus address. -/
structure BusAccess where
  addr : Nat
  size : AccessSize
  kind : AccessKind
  deriving DecidableEq, Repr

/-- What happens outside the engine, one operation per host turn. -/
inductive HostOp where
  /-- `WR` or `RD` (rule R76), or an access the block does not define (rule R53). -/
  | access (a : BusAccess)
  /-- `POLL` (rule R76): reads again on every host turn until `(read & mask) == value`. -/
  | poll (addr : Nat) (mask value : Word)
  /-- The host or another agent writes one byte of the buffer memory (rules R50, R63; `MEM` of rule R76). -/
  | mem (addr : Word) (value : Byte)
  /-- The block's reset is asserted (rule R180). -/
  | reset
  deriving DecidableEq, Repr

/-- Who takes the next step of the total order (rule R61). -/
inductive Agent where
  | host
  | engine
  deriving DecidableEq, Repr

end Sys2Proof
end

