-- ==== Sys2Proof/Machine/State.lean ====
section
/-! DEFINITION. The block's state (10_state.md), as plain data, and its value after reset (rule R39). -/

namespace Sys2Proof.Machine

/-- ERR_CODE (60_exceptions.md rule R160). Codes 7..15 are never recorded, so they have no constructor. -/
inductive ErrCode where
  | none
  | badCmd
  | busy
  | config
  | notReady
  | bounds
  | bus
  deriving DecidableEq, Repr

/-- The sequencer's `state` (10_state.md rule R22). -/
inductive Seq where
  | idle
  | building
  | computing
  deriving DecidableEq, Repr

/-- The staging registers WIDTH, MODE, POLY, INIT, XOROUT (rule R27). -/
structure Staging where
  hashSize : BitVec 6
  refin : Bool
  refout : Bool
  poly : Word
  init : Word
  xorout : Word
  deriving DecidableEq, Repr

/-- The compute-argument registers (rule R29). -/
structure Args where
  bufBase : Word
  bufSize : Word
  offset : Word
  length : Word
  deriving DecidableEq, Repr

/-- The latched configuration `L` (rule R28). -/
structure Latched where
  width : BitVec 6
  refin : Bool
  refout : Bool
  poly : Word
  init : Word
  xorout : Word
  mask : Word
  deriving DecidableEq, Repr

/-- The stored STATUS bits (rule R30). BUSY and REFL8_WARN are computed (rules R23, R34). -/
structure Status where
  ready : Bool
  done : Bool
  err : Bool
  errCode : ErrCode
  errLost : Bool
  deriving DecidableEq, Repr

/-- The sequencer and the datapath registers (rules R21, R22). -/
structure Engine where
  seq : Seq
  /-- `R`: the table-entry working register. -/
  r : Word
  /-- `IDX`: 9 bits, values 0..256. -/
  idx : BitVec 9
  /-- `CRC`: the running register. -/
  crc : Word
  /-- `I`: count of bytes already folded. -/
  i : Word
  cBase : Word
  cOff : Word
  cLen : Word
  deriving DecidableEq, Repr

/-- TABLE, 256 words (rule R24). -/
abbrev Table := Vector Word 256

/-- The buffer memory: addresses strictly rising, no entry equal to what an unlisted address reads as (`Memory.wf`). -/
abbrev Memory := List Host.Cell

/-- What the model keeps of the running COMPUTE to give racing writes their place (20_memory.md rule R63; log 8). -/
structure FoldTrace where
  /-- The bytes folded so far, oldest first. -/
  folded : List Byte
  /-- The addresses of the range written during this COMPUTE before they were folded, without repeats. -/
  raced : List Nat
  deriving DecidableEq, Repr

/-- What one register read returned to the host (42_control_and_access.md rule R142). -/
structure ReadRecord where
  offset : BitVec 8
  value : Word
  deriving DecidableEq, Repr

/-- The host's side: pending operations, whose turns come next (20_memory.md rule R61), and the values it has read. -/
structure HostSide where
  ops : List HostOp
  schedule : List Agent
  rdLog : List ReadRecord
  deriving DecidableEq, Repr

/-- The read port's answer to one request (20_memory.md rule R55). -/
inductive PortAnswer where
  | byte (d : Byte)
  | busError
  deriving DecidableEq, Repr

/-- Why the machine stops. Both reasons need a state that no run reaches (log 11). -/
inductive Fault where
  /-- Raised by a BUILD engine step with IDX ≥ 256, for which no TABLE entry exists (rules R21, R24). Safe: the model stops
  where the spec gives nothing. -/
  | tableIndexOutOfRange
  /-- Raised by a COMPUTE engine step whose read address is 2^32 or more, outside the buffer address space
  (20_memory.md rules R50, R56). Safe: the model stops where the spec gives nothing. -/
  | bufferAddressOutOfRange
  deriving DecidableEq, Repr

/-- What the model gives no meaning to. -/
inductive Refusal where
  /-- Raised by an arm of `exec` whose command has no meaning yet. Safe. -/
  | notModelled (mnemonic : String)
  /-- Raised by a register-port access of 8 or 16 bits (20_memory.md rule R53). Safe. -/
  | narrowAccess
  /-- Raised by a register-port access at an offset that is no multiple of 4 (20_memory.md rule R53). Safe. -/
  | misalignedAccess
  /-- Raised by a host access to an address outside the block's 256-byte window, which the block does not decode (log 10).
  Safe. -/
  | outsideWindow
  deriving DecidableEq, Repr

structure State where
  /-- The platform's parameters; no step changes them. -/
  cfg : Config
  staging : Staging
  args : Args
  tblIndex : BitVec 8
  latched : Latched
  status : Status
  result : Word
  engine : Engine
  table : Table
  mem : Memory
  /-- The model's own: the running COMPUTE's bytes and races (log 8). -/
  trace : FoldTrace
  /-- The model's own: how many free values have been drawn (log 16). -/
  draws : Nat
  /-- The model's own: the addresses requested on the read port, oldest first (20_memory.md rule R56; log 16). -/
  portLog : List Nat
  /-- The model's own: the host's side of the register port (log 3, log 16). -/
  host : HostSide
  deriving DecidableEq, Repr

/-- The block right after reset (rule R39). TABLE and the datapath registers, which the rule leaves unspecified, are 0 by
DESIGN CHOICE (log 1); the configuration is `Config.default` (log 4, log 6); nothing is pending and nothing recorded. -/
def State.reset : State where
  cfg := Config.default
  staging := { hashSize := 0, refin := false, refout := false, poly := 0, init := 0, xorout := 0 }
  args := { bufBase := 0, bufSize := 0, offset := 0, length := 0 }
  tblIndex := 0
  latched := { width := 0, refin := false, refout := false, poly := 0, init := 0, xorout := 0, mask := 0 }
  status := { ready := false, done := false, err := false, errCode := .none, errLost := false }
  result := 0
  engine := { seq := .idle, r := 0, idx := 0, crc := 0, i := 0, cBase := 0, cOff := 0, cLen := 0 }
  table := Vector.replicate 256 0
  mem := []
  trace := { folded := [], raced := [] }
  draws := 0
  portLog := []
  host := { ops := [], schedule := [], rdLog := [] }

end Sys2Proof.Machine
end

