-- ==== Sys2Proof/Machine/Datapath.lean ====
section
/-! DEFINITION. The pure datapath functions: REV8, MASK, CRC_STEP, TABLE_ENTRY (40_table_generator.md rules R100 to R103) and
EFF_INIT, FOLD_R, FOLD_N, FOLD, FINAL, CRC_OF (41_fold_engine.md rules R120 to R125, R128). -/

namespace Sys2Proof.Machine

/-- `v[k]` as a word: bit `k`, zero-extended (00_scope.md rule R11). -/
def bitAt (v : Word) (k : Nat) : Word := (v >>> k) &&& 1

/-- REV8 (rule R100): bits 0..7 reversed; bits 31..8 have no influence. -/
def rev8 (v : Word) : Word :=
  [0, 1, 2, 3, 4, 5, 6, 7].foldl (fun result k => result ||| (bitAt v k <<< (7 - k))) 0

/-- MASK (rule R101). The rule defines it for widths 1..32; 0 gives 0 and more than 32 all ones (log 17). -/
def maskOf (w : Nat) : Word :=
  if w < 32 then BitVec.ofNat 32 (2 ^ w - 1) else 0xFFFFFFFF

/-- `L.WIDTH` as a number. -/
def Latched.w (l : Latched) : Nat := l.width.toNat

/-- CRC_STEP (rule R103): no mask between steps, only the 32-bit truncation of `<<`. Outside widths 1..32, log 17. -/
def crcStep (l : Latched) (r : Word) : Word :=
  if r &&& (1#32 <<< (l.w - 1)) ≠ 0 then (r <<< 1) ^^^ l.poly else r <<< 1

/-- `n` steps of CRC_STEP. -/
def crcSteps (l : Latched) : Nat → Word → Word
  | 0, r => r
  | n + 1, r => crcSteps l n (crcStep l r)

/-- The working register before the 8 steps (rule R102): the index reflected within one byte, or moved to the top byte of
the width, or unshifted. -/
def tableSeed (l : Latched) (idx : Byte) : Word :=
  let r := idx.setWidth 32
  if l.refin then rev8 r
  else if 8 < l.w then r <<< (l.w - 8)
  else r

/-- The working register R at the end of TABLE_ENTRY, before the final mask (rule R102; log 12). -/
def tableWork (l : Latched) (idx : Byte) : Word :=
  let r := crcSteps l 8 (tableSeed l idx)
  if l.refout then rev8 r else r

/-- TABLE_ENTRY (rule R102). -/
def tableEntry (l : Latched) (idx : Byte) : Word := tableWork l idx &&& l.mask

/-- `TABLE[x & 0xFF]`. -/
def tableAt (t : Table) (x : Word) : Word := t[(x.setWidth 8).toNat]'(x.setWidth 8).isLt

/-- EFF_INIT (rule R121), not masked to the width. -/
def effInit (l : Latched) : Word := if l.refout then rev8 l.init else l.init

/-- FOLD_R (rule R122). -/
def foldR (l : Latched) (t : Table) (crc : Word) (d : Byte) : Word :=
  (tableAt t (crc ^^^ d.setWidth 32) ^^^ (crc >>> 8)) &&& l.mask

/-- FOLD_N (rule R123): `shift = max(L.WIDTH - 8, 0)`. Outside widths 1..32, log 17. -/
def foldN (l : Latched) (t : Table) (crc : Word) (d : Byte) : Word :=
  (tableAt t ((crc >>> (l.w - 8)) ^^^ d.setWidth 32) ^^^ (crc <<< 8)) &&& l.mask

/-- FOLD (rules R120, R124): the mode is L.REFOUT alone. -/
def fold (l : Latched) (t : Table) (crc : Word) (d : Byte) : Word :=
  if l.refout then foldR l t crc d else foldN l t crc d

/-- FINAL (rule R125). -/
def final (l : Latched) (crc : Word) : Word := (crc ^^^ l.xorout) &&& l.mask

/-- The running register after the bytes `bytes` (rules R121, R124). -/
def crcRun (l : Latched) (t : Table) (bytes : List Byte) : Word :=
  bytes.foldl (fold l t) (effInit l)

/-- CRC_OF (rule R128). -/
def crcOf (l : Latched) (t : Table) (bytes : List Byte) : Word := final l (crcRun l t bytes)

/-- The table a completed BUILD leaves (rules R102, R108). -/
def builtTable (l : Latched) : Table := Vector.ofFn fun b : Fin 256 => tableEntry l (BitVec.ofFin b)

end Sys2Proof.Machine
end

