-- ==== Sys2Proof/Machine/Ops.lean ====
section
/-! DEFINITION. The named operations over memory, the read port, the table, the error record and the host's queue. -/

namespace Sys2Proof.Machine

/-! ## Buffer memory (20_memory.md rule R50) -/

/-- What an address the memory does not list reads as (log 2). -/
def Memory.unlisted : Byte := 0

/-- The byte at an address. -/
def Memory.read : Memory → Nat → Byte
  | [], _ => Memory.unlisted
  | (k, v) :: rest, a => if k = a then v else Memory.read rest a

/-- The entry an address and a byte make in front of a memory: none for the byte an unlisted address reads as. -/
def Memory.put (a : Nat) (b : Byte) (rest : Memory) : Memory :=
  if b = Memory.unlisted then rest else (a, b) :: rest

/-- One byte written, keeping the canonical form. -/
def Memory.write : Memory → Nat → Byte → Memory
  | [], a, b => Memory.put a b []
  | (k, v) :: rest, a, b =>
    if k < a then (k, v) :: Memory.write rest a b
    else if k = a then Memory.put a b rest
    else Memory.put a b ((k, v) :: rest)

/-- The canonical form from address `lo` on: rising addresses below 2^32, no entry equal to an unlisted byte. -/
def Memory.wfFrom : Nat → Memory → Bool
  | _, [] => true
  | lo, (k, v) :: rest => decide (lo ≤ k) && decide (k < 2 ^ 32) && decide (v ≠ Memory.unlisted) && wfFrom (k + 1) rest

/-- The canonical form of the buffer memory. -/
def Memory.wf (m : Memory) : Bool := Memory.wfFrom 0 m

/-- What answers at a buffer address: the first region that holds it, else plain memory (20_memory.md rule R55). -/
def regionKindAt (cfg : Config) (a : Nat) : RegionKind :=
  match cfg.regions.find? fun g => decide (g.base ≤ a) && decide (a < g.base + g.size) with
  | some g => g.kind
  | none => .memory

/-! ## The read port (20_memory.md rules R55, R56, R63) -/

/-- A free draw of any `u8` (rule R63): the next value of `Config.freeByte`. -/
def State.drawByte (s : State) : Byte × State :=
  (Config.freeByte s.draws, { s with draws := s.draws + 1 })

/-- The request is put on the port. -/
def State.request (s : State) (a : Nat) : State := { s with portLog := s.portLog ++ [a] }

/-- `MemRead(a, 1)` (rule R55): one request, answered with a byte or with `BusError`. A device region (rule R57; log 7) and a
byte written in the range during the COMPUTE (rule R63; log 8) answer with a free draw. -/
def State.memRead (s : State) (a : Nat) : PortAnswer × State :=
  match regionKindAt s.cfg a with
  | .busError => (.busError, s.request a)
  | .device => (.byte s.drawByte.1, (s.request a).drawByte.2)
  | .memory =>
    if a ∈ s.trace.raced then (.byte s.drawByte.1, (s.request a).drawByte.2)
    else (.byte (s.mem.read a), s.request a)

/-! ## The error record (60_exceptions.md rules R163, R168) -/

/-- `raise Error(code)` (rule R163): the first error sets ERR and ERR_CODE, a further one ERR_LOST. -/
def State.raiseError (s : State) (code : ErrCode) : State :=
  if s.status.err then { s with status := { s.status with errLost := true } }
  else { s with status := { s.status with err := true, errCode := code } }

/-- Writing 1 to STATUS bit 2 (10_state.md rule R30). -/
def State.clearDone (s : State) : State := { s with status := { s.status with done := false } }

/-- Writing 1 to STATUS bit 3 clears ERR, ERR_CODE and ERR_LOST together (10_state.md rule R30). -/
def State.clearErr (s : State) : State :=
  { s with status := { s.status with err := false, errCode := .none, errLost := false } }

/-! ## Buffer writes by the host or another agent (20_memory.md rules R50, R63) -/

/-- The first address of the running COMPUTE's range, an exact sum (rule R56). -/
def Engine.rangeStart (e : Engine) : Nat := e.cBase.toNat + e.cOff.toNat

/-- Whether a COMPUTE is running and `a` lies in its range `[C_BASE + C_OFF, C_BASE + C_OFF + C_LEN)`. -/
def Engine.inRange (e : Engine) (a : Nat) : Bool :=
  decide (e.seq = .computing) && decide (e.rangeStart ≤ a) && decide (a < e.rangeStart + e.cLen.toNat)

/-- The byte at place `j` of the running COMPUTE, already folded, was written during the COMPUTE: the value folded for it is a
free draw, so the running register is that of the bytes with that draw in its place (rule R63; log 8). -/
def State.redrawFolded (s : State) (j : Nat) : State :=
  let folded := s.trace.folded.set j s.drawByte.1
  { s.drawByte.2 with
    trace := { s.trace with folded := folded }
    engine := { s.engine with crc := crcRun s.latched s.table folded } }

/-- The address will be folded later in the running COMPUTE: its value is then a free draw (rule R63; log 8). -/
def State.markRaced (s : State) (a : Nat) : State :=
  { s with trace := { s.trace with raced := s.trace.raced.insert a } }

/-- What a write at `a` does to the running COMPUTE (rule R63). -/
def State.race (s : State) (a : Nat) : State :=
  if s.engine.inRange a then
    if a < s.engine.rangeStart + s.engine.i.toNat then s.redrawFolded (a - s.engine.rangeStart)
    else s.markRaced a
  else s

/-- One byte of the buffer memory written by the host or another agent. -/
def State.storeByte (s : State) (a : Word) (b : Byte) : State :=
  let s' := s.race a.toNat
  { s' with mem := s'.mem.write a.toNat b }

/-! ## Reset (70_reset_and_hazards.md rule R180) -/

/-- The block's reset: every piece of the block's state as after power-on, a running command abandoned. What is not the
block's stays: the platform's parameters, the buffer memory, the host's side and the port's history (log 15). -/
def State.blockReset (s : State) : State :=
  { State.reset with cfg := s.cfg, mem := s.mem, draws := s.draws, portLog := s.portLog, host := s.host }

/-! ## The host's queue (log 3) -/

/-- The turn at the head of the schedule is used up. -/
def State.takeTurn (s : State) : State := { s with host := { s.host with schedule := s.host.schedule.tail } }

/-- The host's first pending operation is done. -/
def State.dropOp (s : State) : State := { s with host := { s.host with ops := s.host.ops.tail } }

/-- The host is given the value of a register read (42_control_and_access.md rule R142). -/
def State.logRead (s : State) (off : BitVec 8) (v : Word) : State :=
  { s with host := { s.host with rdLog := s.host.rdLog ++ [{ offset := off, value := v }] } }

end Sys2Proof.Machine
end

