-- ==== Sys2Proof/Machine/Operands.lean ====
section
/-! DEFINITION. The operands of the commands: register values at the moment the CMD write is accepted (30_encoding.md rule
R72), and the operand checks of BUILD and COMPUTE (40_table_generator.md rule R105, 41_fold_engine.md rule R126). -/

namespace Sys2Proof.Machine

/-- WIDTH.HASH_SIZE, zero-extended. -/
def Staging.w (p : Staging) : Nat := p.hashSize.toNat

/-- The latched copy of the staging registers, with L.MASK (40_table_generator.md rule R107). -/
def Staging.latch (p : Staging) : Latched where
  width := p.hashSize
  refin := p.refin
  refout := p.refout
  poly := p.poly
  init := p.init
  xorout := p.xorout
  mask := maskOf p.w

/-- A width outside 1..32 (rule R105). -/
def Staging.badWidth (p : Staging) : Bool := decide (p.w < 1) || decide (32 < p.w)

/-- A POLY, INIT or XOROUT bit above the width (rule R105). -/
def Staging.excessBits (p : Staging) : Bool :=
  decide ((p.poly ||| p.init ||| p.xorout) &&& ~~~ maskOf p.w ≠ 0)

/-- The checks of rule R105: BUILD raises CONFIG. -/
def State.configError (s : State) : Bool :=
  s.staging.badWidth || (decide (s.cfg.paramCheck = .reject) && s.staging.excessBits)

/-- The checks of rule R126 on exact sums: COMPUTE raises BOUNDS. -/
def Args.outOfBounds (a : Args) : Bool :=
  decide (a.bufSize.toNat < a.offset.toNat + a.length.toNat) || decide (2 ^ 32 < a.bufBase.toNat + a.bufSize.toNat)

/-- The buffer address of fold number I, an exact sum (20_memory.md rule R56). -/
def Engine.readAddress (e : Engine) : Nat := e.cBase.toNat + e.cOff.toNat + e.i.toNat

end Sys2Proof.Machine
end

