-- ==== Sys2Proof/Machine/Flags.lean ====
section
/-! DEFINITION. The STATUS word and its computed flags (10_state.md rules R23, R30, R34, R41). -/

namespace Sys2Proof.Machine

/-- BUSY (rule R23). -/
def State.busy (s : State) : Bool := decide (s.engine.seq ≠ .idle)

/-- REFL8_WARN (rule R34). -/
def Latched.refl8Warn (l : Latched) : Bool := l.refout && decide (l.w ≠ 8)

/-- The ERR_CODE values (60_exceptions.md rule R160). -/
def ErrCode.code : ErrCode → BitVec 4
  | .none => 0
  | .badCmd => 1
  | .busy => 2
  | .config => 3
  | .notReady => 4
  | .bounds => 5
  | .bus => 6

/-- A flag at bit position `n` of a word. -/
def flagBit (b : Bool) (n : Nat) : Word := if b then 1#32 <<< n else 0

/-- STATUS (rule R30). -/
def State.statusWord (s : State) : Word :=
  flagBit s.busy 0 ||| flagBit s.status.ready 1 ||| flagBit s.status.done 2 ||| flagBit s.status.err 3 |||
    (s.status.errCode.code.setWidth 32 <<< 4) ||| flagBit s.status.errLost 8 ||| flagBit s.latched.refl8Warn 9

/-- What a write of `v` to STATUS does (rule R30). -/
def State.writeStatus (s : State) (v : Word) : State :=
  let s' := if v.getLsbD 2 then s.clearDone else s
  if v.getLsbD 3 then s'.clearErr else s'

end Sys2Proof.Machine
end

