-- ==== Sys2Proof/Machine/Build.lean ====
section
/-! DEFINITION. BUILD: acceptance (40_table_generator.md rules R105, R107) and its engine step (rule R108). -/

namespace Sys2Proof.Machine

/-- The acceptance of a BUILD, one indivisible step (rule R107). -/
def State.acceptBuild (s : State) : State :=
  { s with
    latched := s.staging.latch
    status := { s.status with ready := false }
    engine := { s.engine with seq := .building, idx := 0 } }

/-- BUILD at the CMD write, in the check order of 60_exceptions.md rule R166 steps 3 and 4. -/
def execBuild (s : State) : Host.Outcome State Fault Refusal :=
  if s.busy then .next (s.raiseError .busy)
  else if s.configError then .next (s.raiseError .config)
  else .next s.acceptBuild

/-- TABLE[IDX] <- TABLE_ENTRY(L, IDX), IDX <- IDX + 1 (rule R108), for an entry that exists. R keeps the working register
(10_state.md rule R21; log 12). -/
def State.writeEntry (s : State) (idx : Byte) : State :=
  let r := tableWork s.latched idx
  { s with
    table := s.table.set idx.toNat (r &&& s.latched.mask) idx.isLt
    engine := { s.engine with r := r, idx := s.engine.idx + 1 } }

/-- The end of a BUILD (rule R108): READY and DONE set, the engine IDLE. -/
def State.finishBuild (s : State) : State :=
  { s with
    status := { s.status with ready := true, done := true }
    engine := { s.engine with seq := .idle } }

/-- The BUILD engine step (rule R108). -/
def buildStep (s : State) : Host.Outcome State Fault Refusal :=
  if s.engine.idx.toNat < 256 then
    let s' := s.writeEntry (s.engine.idx.setWidth 8)
    if s'.engine.idx = 256 then .next s'.finishBuild else .next s'
  else .fault .tableIndexOutOfRange

end Sys2Proof.Machine
end

