-- ==== Sys2Proof/Machine/Compute.lean ====
section
/-! DEFINITION. COMPUTE: acceptance (41_fold_engine.md rule R126) and its engine step (rule R127). -/

namespace Sys2Proof.Machine

/-- The acceptance of a COMPUTE, one indivisible step (rule R126). No byte is folded and none raced yet (log 8). -/
def State.acceptCompute (s : State) : State :=
  { s with
    engine :=
      { s.engine with
        seq := .computing
        crc := effInit s.latched
        i := 0
        cBase := s.args.bufBase
        cOff := s.args.offset
        cLen := s.args.length }
    trace := { folded := [], raced := [] } }

/-- COMPUTE at the CMD write, in the check order of 60_exceptions.md rule R166 steps 3 and 5. -/
def execCompute (s : State) : Host.Outcome State Fault Refusal :=
  if s.busy then .next (s.raiseError .busy)
  else if !s.status.ready then .next (s.raiseError .notReady)
  else if s.args.outOfBounds then .next (s.raiseError .bounds)
  else .next s.acceptCompute

/-- CRC <- FOLD(L, CRC, d), I <- I + 1 (rule R127). -/
def State.foldByte (s : State) (d : Byte) : State :=
  { s with
    engine := { s.engine with crc := fold s.latched s.table s.engine.crc d, i := s.engine.i + 1 }
    trace := { s.trace with folded := s.trace.folded ++ [d] } }

/-- The completion step (rule R127): RESULT <- FINAL(L, CRC), DONE set, the engine IDLE. -/
def State.finishCompute (s : State) : State :=
  { s with
    result := final s.latched s.engine.crc
    status := { s.status with done := true }
    engine := { s.engine with seq := .idle } }

/-- `raise Error(BUS)` in an engine step (60_exceptions.md rule R163): the error is recorded and the engine is IDLE; RESULT,
DONE and READY stay. -/
def State.abortCompute (s : State) : State :=
  let s' := s.raiseError .bus
  { s' with engine := { s'.engine with seq := .idle } }

/-- The COMPUTE engine step (rule R127). -/
def computeStep (s : State) : Host.Outcome State Fault Refusal :=
  if s.engine.i.toNat < s.engine.cLen.toNat then
    if s.engine.readAddress < 2 ^ 32 then
      match s.memRead s.engine.readAddress with
      | (.byte d, s') => .next (s'.foldByte d)
      | (.busError, s') => .next s'.abortCompute
    else .fault .bufferAddressOutOfRange
  else .next s.finishCompute

end Sys2Proof.Machine
end

