-- ==== Sys2Proof/Machine/Engine.lean ====
section
/-! DEFINITION. The engine's turn (10_state.md rule R22). -/

namespace Sys2Proof.Machine

/-- One engine step. An IDLE engine takes none: its turn passes (60_exceptions.md rule R174; log 13). -/
def engineStep (s : State) : Host.Outcome State Fault Refusal :=
  match s.engine.seq with
  | .idle => .next s
  | .building => buildStep s
  | .computing => computeStep s

/-- `n` engine steps in a row, stopping at the first that does not go on. -/
def engineRun : Nat → State → Host.Outcome State Fault Refusal
  | 0, s => .next s
  | n + 1, s =>
    match engineStep s with
    | .next s' => engineRun n s'
    | .fault f => .fault f
    | .refused r => .refused r

end Sys2Proof.Machine
end

