-- ==== Sys2Proof/WellFormed.lean ====
section
/-! DEFINITION. What a well-formed command word, command, register access and configuration are. -/

namespace Sys2Proof

/-- A legal command word: RSVD is 0 and OPCODE is one of the three defined ones (30_encoding.md rules R71, R73). -/
def CommandWord.wellFormed (c : CommandWord) : Bool :=
  c.rsvd == 0 && decide (c.opcode.toNat ≤ 2)

/-- Every command is well formed: it has no operand field (30_encoding.md rule R70). -/
def Instr.wellFormed : Instr → Bool
  | .nop => true
  | .build => true
  | .compute => true

/-- A defined register access is 32 bits wide, in the block's window, at an offset that is a multiple of 4
(20_memory.md rule R53, 30_encoding.md rule R75). -/
def BusAccess.wellFormed (cfg : Config) (a : BusAccess) : Bool :=
  decide (a.size = .word) && decide (cfg.blockBase ≤ a.addr) && decide (a.addr < cfg.blockBase + 256) &&
    decide ((a.addr - cfg.blockBase) % 4 = 0)

/-- BLOCK_BASE is aligned to 256 bytes (00_scope.md rule R9) and every region lies in the buffer address space
(20_memory.md rule R50). -/
def Config.wellFormed (cfg : Config) : Bool :=
  decide (cfg.blockBase % 256 = 0) && cfg.regions.all fun g => decide (g.base + g.size ≤ 2 ^ 32)

end Sys2Proof
end

