-- ==== Sys2Proof/Decode.lean ====
section
/-! DEFINITION. The total decoder of command words and register offsets (30_encoding.md rules R70, R71, R73, R74, R75), and
the encoder written from the same tables. -/

namespace Sys2Proof

/-- The fields of a word written to CMD (rule R70). -/
def CommandWord.ofWord (w : Word) : CommandWord :=
  { rsvd := w.extractLsb' 4 28, opcode := w.extractLsb' 0 4 }

/-- The word of given fields (rule R70). -/
def CommandWord.toWord (c : CommandWord) : Word := c.rsvd ++ c.opcode

/-- `decode` of rule R74, with the reason of an illegal word (rule R73). -/
def decode (w : Word) : Decoded :=
  let c := CommandWord.ofWord w
  if c.rsvd ≠ 0 then .illegal .reservedBits
  else if c.opcode = 0x0#4 then .command .nop
  else if c.opcode = 0x1#4 then .command .build
  else if c.opcode = 0x2#4 then .command .compute
  else .illegal .reservedOpcode

/-- OPCODE of a command (rule R71). -/
def Instr.opcode : Instr → BitVec 4
  | .nop => 0x0#4
  | .build => 0x1#4
  | .compute => 0x2#4

/-- The fields of a command's word: RSVD is 0 (rule R73). -/
def Instr.commandWord (i : Instr) : CommandWord := { rsvd := 0, opcode := i.opcode }

/-- The 32-bit word of a command (rules R70, R71). -/
def encode (i : Instr) : Word := i.commandWord.toWord

/-- The command the decoder reads from the word `w`, bits numbered as opcode_table.json numbers them; the table's rows are
whole 32-bit words, and bits from `nbits` on are 0. -/
def decodeTableWord (nbits w : Nat) : Option Instr :=
  match decode (BitVec.ofNat 32 (w % 2 ^ nbits)) with
  | .command i => some i
  | .illegal _ => none

/-- The register at a window offset that is a multiple of 4 (rules R25, R38, R75). -/
def regAt (off : BitVec 8) : Reg :=
  match off.toNat with
  | 0x00 => .cmd
  | 0x04 => .status
  | 0x08 => .width
  | 0x0C => .mode
  | 0x10 => .poly
  | 0x14 => .init
  | 0x18 => .xorout
  | 0x1C => .bufBase
  | 0x20 => .bufSize
  | 0x24 => .offset
  | 0x28 => .length
  | 0x2C => .result
  | 0x30 => .tblIndex
  | 0x34 => .tblData
  | 0x38 => .mask
  | 0x3C => .cfg
  | 0x40 => .cfgPoly
  | 0x44 => .cfgInit
  | 0x48 => .cfgXorout
  | _ => .reserved

/-- The offset of a defined register (rule R25); for the reserved space, its first offset (rule R38). -/
def offsetOf : Reg → BitVec 8
  | .cmd => 0x00
  | .status => 0x04
  | .width => 0x08
  | .mode => 0x0C
  | .poly => 0x10
  | .init => 0x14
  | .xorout => 0x18
  | .bufBase => 0x1C
  | .bufSize => 0x20
  | .offset => 0x24
  | .length => 0x28
  | .result => 0x2C
  | .tblIndex => 0x30
  | .tblData => 0x34
  | .mask => 0x38
  | .cfg => 0x3C
  | .cfgPoly => 0x40
  | .cfgInit => 0x44
  | .cfgXorout => 0x48
  | .reserved => 0x4C

end Sys2Proof
end

