-- ==== Sys2Proof/Machine/Control.lean ====
section
/-! DEFINITION. NOP (42_control_and_access.md rule R140). -/

namespace Sys2Proof.Machine

/-- NOP: nothing changes, whether or not the engine is busy (rule R140; 60_exceptions.md rule R166 step 2). -/
def execNop (s : State) : Host.Outcome State Fault Refusal := .next s

end Sys2Proof.Machine
end

