-- ==== Sys2Proof/Machine/HostPort.lean ====
section
/-! DEFINITION. The register slave port and the host's turn: register reads and writes (42_control_and_access.md rules R142,
R143, R144), the window (20_memory.md rule R53, 30_encoding.md rule R75), POLL, buffer writes and reset. -/

namespace Sys2Proof.Machine

/-- The value a register reads as (10_state.md rules R25, R30, R36, R37, R38). -/
def State.readReg (s : State) : Reg → Word
  | .cmd => 0
  | .status => s.statusWord
  | .width => s.staging.hashSize.setWidth 32
  | .mode => flagBit s.staging.refin 0 ||| flagBit s.staging.refout 1
  | .poly => s.staging.poly
  | .init => s.staging.init
  | .xorout => s.staging.xorout
  | .bufBase => s.args.bufBase
  | .bufSize => s.args.bufSize
  | .offset => s.args.offset
  | .length => s.args.length
  | .result => s.result
  | .tblIndex => s.tblIndex.setWidth 32
  | .tblData => if s.status.ready then tableAt s.table (s.tblIndex.setWidth 32) else 0
  | .mask => s.latched.mask
  | .cfg => s.latched.width.setWidth 32 ||| flagBit s.latched.refin 8 ||| flagBit s.latched.refout 9
  | .cfgPoly => s.latched.poly
  | .cfgInit => s.latched.init
  | .cfgXorout => s.latched.xorout
  | .reserved => 0

/-- Command dispatch, one indivisible step (rule R144): an illegal word raises BAD_CMD before any other check
(60_exceptions.md rule R166 step 1). -/
def dispatch (s : State) (v : Word) : Host.Outcome State Fault Refusal :=
  match decode v with
  | .command i => exec i s
  | .illegal _ => .next (s.raiseError .badCmd)

/-- A register write (rule R143), in any engine state. -/
def State.writeReg (s : State) (reg : Reg) (v : Word) : Host.Outcome State Fault Refusal :=
  match reg with
  | .cmd => dispatch s v
  | .status => .next (s.writeStatus v)
  | .width => .next { s with staging := { s.staging with hashSize := v.setWidth 6 } }
  | .mode => .next { s with staging := { s.staging with refin := v.getLsbD 0, refout := v.getLsbD 1 } }
  | .poly => .next { s with staging := { s.staging with poly := v } }
  | .init => .next { s with staging := { s.staging with init := v } }
  | .xorout => .next { s with staging := { s.staging with xorout := v } }
  | .bufBase => .next { s with args := { s.args with bufBase := v } }
  | .bufSize => .next { s with args := { s.args with bufSize := v } }
  | .offset => .next { s with args := { s.args with offset := v } }
  | .length => .next { s with args := { s.args with length := v } }
  | .tblIndex => .next { s with tblIndex := v.setWidth 8 }
  | .result => .next s
  | .tblData => .next s
  | .mask => .next s
  | .cfg => .next s
  | .cfgPoly => .next s
  | .cfgInit => .next s
  | .cfgXorout => .next s
  | .reserved => .next s

/-- Why the block defines no behaviour for an access of this width at this bus address (rules R53, R75; log 10). -/
def accessRefusal (cfg : Config) (addr : Nat) (size : AccessSize) : Option Refusal :=
  if addr < cfg.blockBase ∨ cfg.blockBase + 256 ≤ addr then some .outsideWindow
  else if size ≠ .word then some .narrowAccess
  else if (addr - cfg.blockBase) % 4 ≠ 0 then some .misalignedAccess
  else none

/-- The window offset of a bus address (00_scope.md rule R13). -/
def windowOffset (cfg : Config) (addr : Nat) : BitVec 8 := BitVec.ofNat 8 (addr - cfg.blockBase)

/-- A defined register access. -/
def State.portAccess (s : State) (off : BitVec 8) : AccessKind → Host.Outcome State Fault Refusal
  | .read => .next (s.logRead off (s.readReg (regAt off)))
  | .write v => s.writeReg (regAt off) v

/-- A host access to the bus, the operation already taken from the queue. -/
def State.busAccess (s : State) (a : BusAccess) : Host.Outcome State Fault Refusal :=
  match accessRefusal s.cfg a.addr a.size with
  | some r => .refused r
  | none => s.portAccess (windowOffset s.cfg a.addr) a.kind

/-- One read of a POLL; the operation leaves the queue when `(read & mask) == value` (30_encoding.md rule R76). -/
def State.pollOnce (s : State) (addr : Nat) (mask value : Word) : Host.Outcome State Fault Refusal :=
  match accessRefusal s.cfg addr .word with
  | some r => .refused r
  | none =>
    let off := windowOffset s.cfg addr
    let v := s.readReg (regAt off)
    if v &&& mask = value then .next (s.dropOp.logRead off v) else .next (s.logRead off v)

/-- The host's turn: its first pending operation. With none pending the turn passes (log 13). -/
def hostStep (s : State) : Host.Outcome State Fault Refusal :=
  match s.host.ops with
  | [] => .next s
  | .access a :: _ => s.dropOp.busAccess a
  | .poll addr mask value :: _ => s.pollOnce addr mask value
  | .mem a b :: _ => .next (s.dropOp.storeByte a b)
  | .reset :: _ => .next s.dropOp.blockReset

/-- Whose turn it is (20_memory.md rule R61): as the schedule says; past its end a busy engine goes before the host, which
gives the progress of 70_reset_and_hazards.md rule R190 (log 3). -/
def State.nextAgent (s : State) : Agent :=
  match s.host.schedule with
  | a :: _ => a
  | [] => if s.busy then .engine else .host

end Sys2Proof.Machine
end

