-- ==== Sys2Proof/Machine/Step.lean ====
section
/-! DEFINITION. One step of the total order of host operations and engine steps (20_memory.md rule R61). -/

namespace Sys2Proof.Machine

/-- The next agent takes its turn. -/
def step (s : State) : Host.Outcome State Fault Refusal :=
  match s.nextAgent with
  | .host => hostStep s.takeTurn
  | .engine => engineStep s.takeTurn

/-- The command word `w` as what runs next: a CMD write is the host's first pending operation and the host has the next turn.
A command comes to run in no other way (10_state.md rule R26; log 3). -/
def State.withFetchWord (s : State) (nbits w : Nat) : State :=
  { s with
    host :=
      { s.host with
        ops :=
          .access { addr := s.cfg.blockBase, size := .word, kind := .write (BitVec.ofNat 32 (w % 2 ^ nbits)) } :: s.host.ops
        schedule := .host :: s.host.schedule } }

end Sys2Proof.Machine
end

