-- ==== Sys2Proof/Machine/HostProgram.lean ====
section
/-! DEFINITION. Host programs: the lines and pseudo-instructions of 30_encoding.md rules R76 and R77 as lists of host
operations, for a block at bus address `base`. -/

namespace Sys2Proof.Machine

/-- `WR <reg>, <value>` (rule R76). -/
def wr (base : Nat) (reg : Reg) (value : Word) : HostOp :=
  .access { addr := base + (offsetOf reg).toNat, size := .word, kind := .write value }

/-- `RD <reg>` (rule R76). -/
def rd (base : Nat) (reg : Reg) : HostOp :=
  .access { addr := base + (offsetOf reg).toNat, size := .word, kind := .read }

/-- `POLL <reg>, <mask>, <value>` (rule R76). -/
def pollReg (base : Nat) (reg : Reg) (mask value : Word) : HostOp := .poll (base + (offsetOf reg).toNat) mask value

/-- `MEM <addr>: <bytes>` (rule R76), one byte write an operation. DESIGN CHOICE (log 18): the byte after address 0xFFFFFFFF goes to
address 0, since rule R76 does not say what a line that runs past the end of the space means. -/
def memBytes (addr : Word) : List Byte → List HostOp
  | [] => []
  | b :: rest => .mem addr b :: memBytes (addr + 1) rest

/-- A command: `NOP`, `BUILD` or `COMPUTE` of rule R77 is a CMD write of its word. -/
def command (base : Nat) (i : Instr) : HostOp := wr base .cmd (encode i)

/-- `WAIT`: `POLL STATUS, 0x1, 0x0`. -/
def wait (base : Nat) : HostOp := pollReg base .status 0x1 0x0

/-- `CLEAR`: `WR STATUS, 0xC`. -/
def clear (base : Nat) : HostOp := wr base .status 0xC

/-- `PARAMS w, p, i, ri, ro, x`. -/
def params (base : Nat) (w p i ri ro x : Word) : List HostOp :=
  [wr base .width w, wr base .mode (ri ||| (ro <<< 1)), wr base .poly p, wr base .init i, wr base .xorout x]

/-- `CONSTRUCT w, p, i, ri, ro, x`. -/
def construct (base : Nat) (w p i ri ro x : Word) : List HostOp :=
  params base w p i ri ro x ++ [command base .build, wait base]

/-- `CRC base, size, off, len`. -/
def crc (base : Nat) (bufBase size off len : Word) : List HostOp :=
  [wr base .bufBase bufBase, wr base .bufSize size, wr base .offset off, wr base .length len,
    command base .compute, wait base, rd base .result]

end Sys2Proof.Machine
end

