-- ==== Sys2Proof/Safety.lean ====
section
/-! DEFINITION. What a safe run is: the invariants of 10_state.md rule R40 and those of the sequencer, the runs from reset, the
events a step can be, and which states no host can tell apart (rule R39). -/

namespace Sys2Proof.Machine

/-- Entry `b` of the table. -/
def State.entry (s : State) (b : Byte) : Word := s.table[b.toNat]'b.isLt

/-- A width the rules are defined for (00_scope.md rule R10), with the mask of that width (40_table_generator.md rule R101). -/
def Latched.Sound (l : Latched) : Prop := 1 ≤ l.w ∧ l.w ≤ 32 ∧ l.mask = maskOf l.w

/-- What rule R40 says of a state: of READY = 1, and of BUILDING. -/
structure State.R40 (s : State) : Prop where
  sound : s.status.ready = true → s.latched.Sound
  built : s.status.ready = true → ∀ b : Byte, s.entry b = tableEntry s.latched b
  masked : s.status.ready = true → ∀ b : Byte, s.entry b &&& ~~~ s.latched.mask = 0
  notBuilding : s.status.ready = true → s.engine.seq ≠ .building
  buildingNotReady : s.engine.seq = .building → s.status.ready = false

/-- A BUILD under way: a sound latched configuration and the entries below IDX written (40_table_generator.md rule R108). -/
structure State.BuildingInv (s : State) : Prop where
  sound : s.latched.Sound
  index : s.engine.idx.toNat < 256
  entries : ∀ b : Byte, b.toNat < s.engine.idx.toNat → s.entry b = tableEntry s.latched b

/-- A COMPUTE under way: READY, I at most C_LEN, the range inside the buffer address space (20_memory.md rule R56), and CRC the
running register of the I bytes folded so far (41_fold_engine.md rules R121, R127). -/
structure State.ComputingInv (s : State) : Prop where
  ready : s.status.ready = true
  count : s.engine.i.toNat ≤ s.engine.cLen.toNat
  range : s.engine.cBase.toNat + s.engine.cOff.toNat + s.engine.cLen.toNat ≤ 2 ^ 32
  length : s.trace.folded.length = s.engine.i.toNat
  crc : s.engine.crc = crcRun s.latched s.table s.trace.folded

/-- The invariant of the machine. -/
structure State.Inv (s : State) : Prop where
  memory : Memory.wf s.mem = true
  r40 : s.R40
  building : s.engine.seq = .building → s.BuildingInv
  computing : s.engine.seq = .computing → s.ComputingInv
  noError : s.status.err = false → s.status.errCode = .none ∧ s.status.errLost = false
  error : s.status.err = true → s.status.errCode ≠ .none

/-- The block after reset on some platform, with some buffer memory and some host operations to come. -/
def State.Start (s : State) : Prop :=
  ∃ (cfg : Config) (mem : Memory) (ops : List HostOp) (schedule : List Agent),
    Memory.wf mem = true ∧
      s = { State.reset with cfg := cfg, mem := mem, host := { ops := ops, schedule := schedule, rdLog := [] } }

/-- The states of the runs from reset. -/
inductive State.Reachable : State → Prop where
  | start {s : State} (h : s.Start) : s.Reachable
  | next {s t : State} (h : s.Reachable) (ht : step s = .next t) : t.Reachable

/-- The next step is a write of `v` to CMD. -/
def State.WritesCmd (s : State) (v : Word) : Prop :=
  s.nextAgent = .host ∧
    ∃ rest, s.host.ops = .access { addr := s.cfg.blockBase, size := .word, kind := .write v } :: rest

/-- The next step is a write of `v` to the register `reg`. -/
def State.WritesReg (s : State) (reg : Reg) (v : Word) : Prop :=
  s.nextAgent = .host ∧
    ∃ rest, s.host.ops =
      .access { addr := s.cfg.blockBase + (offsetOf reg).toNat, size := .word, kind := .write v } :: rest

/-- The next step is the block's reset. -/
def State.Resets (s : State) : Prop := s.nextAgent = .host ∧ ∃ rest, s.host.ops = .reset :: rest

/-- The next step is a write of the byte `b` to the buffer address `a`. -/
def State.Stores (s : State) (a : Word) (b : Byte) : Prop := s.nextAgent = .host ∧ ∃ rest, s.host.ops = .mem a b :: rest

/-- The next step is one of the engine's, in the sequencer state `q`. -/
def State.Engages (s : State) (q : Seq) : Prop := s.nextAgent = .engine ∧ s.engine.seq = q

/-- `n` steps in a row, stopping at the first that does not go on. -/
def stepRun : Nat → State → Host.Outcome State Fault Refusal
  | 0, s => .next s
  | n + 1, s =>
    match step s with
    | .next t => stepRun n t
    | .fault f => .fault f
    | .refused r => .refused r

/-- The bit-by-bit left-shifting CRC register, one message bit at a time, kept to its width: the reference that
41_fold_engine.md rule R129 item 5 compares with (PRESUMED, log 19). -/
def serialBit (p : Staging) (crc : Word) (b : Bool) : Word :=
  let shifted := (crc <<< 1) &&& maskOf p.w
  if crc.getLsbD (p.w - 1) ^^ b then shifted ^^^ (p.poly &&& maskOf p.w) else shifted

/-- The eight bits of a message byte, most significant first (log 19). -/
def serialByte (p : Staging) (crc : Word) (d : Byte) : Word :=
  [7, 6, 5, 4, 3, 2, 1, 0].foldl (fun c k => serialBit p c (d.getLsbD k)) crc

/-- The bit-serial CRC of a message (log 19). -/
def serialCrc (p : Staging) (bytes : List Byte) : Word :=
  (bytes.foldl (serialByte p) (p.init &&& maskOf p.w) ^^^ p.xorout) &&& maskOf p.w

/-- The states differ at most in what rule R39 leaves unspecified and calls unobservable: TABLE while READY = 0 (during a BUILD,
its entries from IDX on), and the datapath registers outside the command that uses them. -/
structure State.Alike (s t : State) : Prop where
  cfg : t.cfg = s.cfg
  staging : t.staging = s.staging
  args : t.args = s.args
  tblIndex : t.tblIndex = s.tblIndex
  latched : t.latched = s.latched
  status : t.status = s.status
  result : t.result = s.result
  mem : t.mem = s.mem
  draws : t.draws = s.draws
  portLog : t.portLog = s.portLog
  host : t.host = s.host
  seq : t.engine.seq = s.engine.seq
  readyTable : s.status.ready = true → t.table = s.table
  building : s.engine.seq = .building →
    t.engine.idx = s.engine.idx ∧ ∀ b : Byte, b.toNat < s.engine.idx.toNat → t.entry b = s.entry b
  computing : s.engine.seq = .computing →
    t.table = s.table ∧ t.trace = s.trace ∧ t.engine.crc = s.engine.crc ∧ t.engine.i = s.engine.i ∧
      t.engine.cBase = s.engine.cBase ∧ t.engine.cOff = s.engine.cOff ∧ t.engine.cLen = s.engine.cLen

end Sys2Proof.Machine
end

