-- ==== Sys2Proof/Certificates/Slice0/Obligations.lean ====
section
/-! DEFINITION. The statements for the provers. Each docstring names the rule of spec/ it formalises. -/

open Sys2Proof Sys2Proof.Machine

/-! ## Encoding -/

/-- R71, R73: a few command words written out from the table decode to what they stand for. -/
def Obligations.CommandWordsDecode : Prop :=
  decode 0x00000000 = .command .nop ∧ decode 0x00000001 = .command .build ∧ decode 0x00000002 = .command .compute ∧
    decode 0x00000003 = .illegal .reservedOpcode ∧ decode 0x0000000F = .illegal .reservedOpcode ∧
    decode 0x00000010 = .illegal .reservedBits ∧ decode 0x00000011 = .illegal .reservedBits ∧
    decode 0x80000002 = .illegal .reservedBits

/-- R74: decoding is total over 32-bit words and is what the rule's table says. RSVD ≠ 0 is a value of 16 or more. -/
def Obligations.DecodeIsTheRulesTable : Prop :=
  ∀ w : Word,
    decode w =
      if 16 ≤ w.toNat then .illegal .reservedBits
      else if w.toNat = 0 then .command .nop
      else if w.toNat = 1 then .command .build
      else if w.toNat = 2 then .command .compute
      else .illegal .reservedOpcode

/-- Decoder and encoder agree in both directions (R70, R71, R73): a word decodes to a command exactly when it is that command's
word. -/
def Obligations.DecodeInvertsEncode : Prop :=
  ∀ (i : Instr) (w : Word), decode w = .command i ↔ w = encode i

/-- R25, R75: at a multiple of 4 every defined register is selected by its own offset alone, and the reserved space is
0x4C .. 0xFC. -/
def Obligations.WindowSelectsRegisters : Prop :=
  ∀ off : BitVec 8, off.toNat % 4 = 0 →
    (∀ reg : Reg, reg ≠ .reserved → (regAt off = reg ↔ off = offsetOf reg)) ∧
    (regAt off = .reserved ↔ 0x4C ≤ off.toNat)

/-! ## A step -/

/-- R26, R144: when the host's turn is a write of `v` to CMD and `v` decodes to a command, the step is that command's effect on
the state with the turn and the operation used up. When `v` is illegal, the step records BAD_CMD there (R141). -/
def Obligations.StepRunsDecodedCommand : Prop :=
  ∀ (s : State) (v : Word) (rest : List HostOp),
    s.nextAgent = .host →
    s.host.ops = .access { addr := s.cfg.blockBase, size := .word, kind := .write v } :: rest →
    (∀ i, decode v = .command i →
      step s = exec i { s with host := { s.host with ops := rest, schedule := s.host.schedule.tail } }) ∧
    (∀ why, decode v = .illegal why →
      step s =
        .next (State.raiseError { s with host := { s.host with ops := rest, schedule := s.host.schedule.tail } } .badCmd))

/-- A command placed where the next step takes it is run by that step, and nothing else of the state is touched. -/
def Obligations.StepRunsFetchedCommand : Prop :=
  ∀ (s : State) (i : Instr), step (s.withFetchWord 32 (encode i).toNat) = exec i s

/-- R61, R174: a step is one engine step or one host operation, as the schedule says; past its end the engine goes first while
it is busy (the model's choice, log 3). An IDLE engine's turn changes nothing but the schedule. -/
def Obligations.StepFollowsSchedule : Prop :=
  ∀ s : State,
    (∀ rest, s.host.schedule = .host :: rest → step s = hostStep { s with host := { s.host with schedule := rest } }) ∧
    (∀ rest, s.host.schedule = .engine :: rest → step s = engineStep { s with host := { s.host with schedule := rest } }) ∧
    (∀ rest, s.host.schedule = .engine :: rest → s.engine.seq = .idle →
      step s = .next { s with host := { s.host with schedule := rest } }) ∧
    (s.host.schedule = [] → s.engine.seq ≠ .idle → step s = engineStep s) ∧
    (s.host.schedule = [] → s.engine.seq = .idle → step s = hostStep s)

/-! ## Commands at the CMD write -/

/-- R140: NOP changes nothing, in any engine state, and only the word 0 is a NOP: OPCODE 0 with RSVD ≠ 0 records BAD_CMD. -/
def Obligations.NopChangesNothing : Prop :=
  ∀ s : State,
    exec .nop s = .next s ∧ dispatch s 0 = .next s ∧
      ∀ v : Word, v ≠ 0 → v.toNat % 16 = 0 → dispatch s v = .next (s.raiseError .badCmd)

/-- R141: every word but 0, 1 and 2 records BAD_CMD and changes nothing else, whether or not the engine is busy; STATUS = 0 becomes
0x18. -/
def Obligations.IllegalWordRecordsBadCmd : Prop :=
  ∀ (s : State) (v : Word), v ≠ 0 → v ≠ 1 → v ≠ 2 →
    (s.status.err = false →
      dispatch s v = .next { s with status := { s.status with err := true, errCode := .badCmd } }) ∧
    (s.status.err = true → dispatch s v = .next { s with status := { s.status with errLost := true } }) ∧
    (s.readReg .status = 0 → ∃ t, dispatch s v = .next t ∧ t.readReg .status = 0x18)

/-- R166: the checks at a CMD write, in their order, and the acceptances (what these do is `BuildAcceptanceLatches` and
`ComputeAcceptanceCaptures`). -/
def Obligations.CommandCheckOrder : Prop :=
  ∀ (s : State) (v : Word),
    (∀ why, decode v = .illegal why → dispatch s v = .next (s.raiseError .badCmd)) ∧
    (decode v = .command .nop → dispatch s v = .next s) ∧
    (decode v = .command .build ∨ decode v = .command .compute → s.engine.seq ≠ .idle →
      dispatch s v = .next (s.raiseError .busy)) ∧
    (decode v = .command .build → s.engine.seq = .idle →
      (s.staging.hashSize.toNat < 1 ∨ 32 < s.staging.hashSize.toNat → dispatch s v = .next (s.raiseError .config)) ∧
      (1 ≤ s.staging.hashSize.toNat → s.staging.hashSize.toNat ≤ 32 →
        (s.cfg.paramCheck = .reject →
          (s.staging.poly ||| s.staging.init ||| s.staging.xorout) &&& ~~~ maskOf s.staging.hashSize.toNat ≠ 0 →
          dispatch s v = .next (s.raiseError .config)) ∧
        ((s.cfg.paramCheck = .reject →
            (s.staging.poly ||| s.staging.init ||| s.staging.xorout) &&& ~~~ maskOf s.staging.hashSize.toNat = 0) →
          dispatch s v = .next s.acceptBuild))) ∧
    (decode v = .command .compute → s.engine.seq = .idle →
      (s.status.ready = false → dispatch s v = .next (s.raiseError .notReady)) ∧
      (s.status.ready = true →
        (s.args.bufSize.toNat < s.args.offset.toNat + s.args.length.toNat →
          dispatch s v = .next (s.raiseError .bounds)) ∧
        (2 ^ 32 < s.args.bufBase.toNat + s.args.bufSize.toNat → dispatch s v = .next (s.raiseError .bounds)) ∧
        (s.args.offset.toNat + s.args.length.toNat ≤ s.args.bufSize.toNat →
          s.args.bufBase.toNat + s.args.bufSize.toNat ≤ 2 ^ 32 →
          dispatch s v = .next s.acceptCompute)))

/-- R107 (acceptance): an IDLE engine with a legal width, and no excess bits where PARAM_CHECK = REJECT, accepts BUILD. It latches
the staging registers and the mask, clears READY and starts at entry 0; nothing else changes. -/
def Obligations.BuildAcceptanceLatches : Prop :=
  ∀ s : State,
    s.engine.seq = .idle → 1 ≤ s.staging.hashSize.toNat → s.staging.hashSize.toNat ≤ 32 →
    (s.cfg.paramCheck = .reject →
      ∀ k, s.staging.hashSize.toNat ≤ k →
        s.staging.poly.getLsbD k = false ∧ s.staging.init.getLsbD k = false ∧ s.staging.xorout.getLsbD k = false) →
    exec .build s =
      .next
        { s with
          latched :=
            { width := s.staging.hashSize, refin := s.staging.refin, refout := s.staging.refout, poly := s.staging.poly,
              init := s.staging.init, xorout := s.staging.xorout, mask := BitVec.ofNat 32 (2 ^ s.staging.hashSize.toNat - 1) }
          status := { s.status with ready := false }
          engine := { s.engine with seq := .building, idx := 0 } }

/-- R105: an IDLE engine rejects a BUILD with CONFIG exactly when the width is outside 1..32, or PARAM_CHECK = REJECT and POLY,
INIT or XOROUT has a bit at or above the width. A rejected BUILD changes only the error fields. -/
def Obligations.BuildRejectsBadParameters : Prop :=
  ∀ s : State, s.engine.seq = .idle →
    let w := s.staging.hashSize.toNat
    let excess := ∃ k, w ≤ k ∧ (s.staging.poly.getLsbD k ∨ s.staging.init.getLsbD k ∨ s.staging.xorout.getLsbD k)
    (w < 1 ∨ 32 < w ∨ (s.cfg.paramCheck = .reject ∧ excess) → exec .build s = .next (s.raiseError .config)) ∧
    (1 ≤ w → w ≤ 32 → s.cfg.paramCheck = .truncate ∨ ¬ excess →
      ∃ t, exec .build s = .next t ∧ t.engine.seq = .building ∧ t.latched.poly = s.staging.poly ∧
        t.latched.init = s.staging.init ∧ t.latched.xorout = s.staging.xorout)

/-- R126 (acceptance): an IDLE and READY engine accepts COMPUTE when the range lies in the buffer and the buffer in the address
space, as exact sums. It captures the arguments and starts from EFF_INIT; nothing else of the block changes. -/
def Obligations.ComputeAcceptanceCaptures : Prop :=
  ∀ s : State,
    s.engine.seq = .idle → s.status.ready = true →
    s.args.offset.toNat + s.args.length.toNat ≤ s.args.bufSize.toNat →
    s.args.bufBase.toNat + s.args.bufSize.toNat ≤ 2 ^ 32 →
    exec .compute s =
      .next
        { s with
          engine :=
            { s.engine with
              seq := .computing, crc := if s.latched.refout then rev8 s.latched.init else s.latched.init, i := 0,
              cBase := s.args.bufBase, cOff := s.args.offset, cLen := s.args.length }
          trace := { folded := [], raced := [] } }

/-- R73, R161, R166: no word written to CMD while the engine is busy disturbs the running command; only the error fields can
change. -/
def Obligations.CommandWhileBusyDisturbsNothing : Prop :=
  ∀ (s : State) (v : Word), s.engine.seq ≠ .idle →
    ∃ t, dispatch s v = .next t ∧
      t = { s with
            status := { s.status with err := t.status.err, errCode := t.status.errCode, errLost := t.status.errLost } } ∧
      (v = 0 → t = s)

/-! ## The error record -/

/-- R163: the first error sets ERR and ERR_CODE, a further one sets ERR_LOST and keeps the code; nothing else changes. -/
def Obligations.RaiseErrorRecords : Prop :=
  ∀ (s : State) (code : ErrCode),
    (s.status.err = false →
      s.raiseError code = { s with status := { s.status with err := true, errCode := code } }) ∧
    (s.status.err = true → s.raiseError code = { s with status := { s.status with errLost := true } })

/-- R163: after any sequence of errors from ERR = 0, ERR_CODE names the first, ERR_LOST says whether there was another, and the
rest of the state is untouched. -/
def Obligations.FirstErrorIsKept : Prop :=
  ∀ (s : State) (first : ErrCode) (later : List ErrCode), s.status.err = false → s.status.errLost = false →
    (first :: later).foldl State.raiseError s =
      { s with status := { s.status with err := true, errCode := first, errLost := decide (later ≠ []) } }

/-- R33: ERR, ERR_CODE and ERR_LOST change in a step only by the recording of one error, by a STATUS write with bit 3 set, or by
reset. -/
def Obligations.ErrorFieldsChangeOnlyByRule : Prop :=
  ∀ s t : State, step s = .next t →
    (t.status.err = s.status.err ∧ t.status.errCode = s.status.errCode ∧ t.status.errLost = s.status.errLost) ∨
    (∃ code, code ≠ .none ∧
      t.status.err = (s.raiseError code).status.err ∧ t.status.errCode = (s.raiseError code).status.errCode ∧
        t.status.errLost = (s.raiseError code).status.errLost) ∨
    (∃ v, s.WritesReg .status v ∧ v.getLsbD 3 = true ∧
      t.status.err = false ∧ t.status.errCode = .none ∧ t.status.errLost = false) ∨
    (s.Resets ∧ t.status.err = false ∧ t.status.errCode = .none ∧ t.status.errLost = false)

/-! ## The engine's steps -/

/-- R108, one step: the entry at IDX is written with TABLE_ENTRY and IDX advances; the step of entry 255 also sets READY and DONE
and returns to IDLE. R holds what the rule does not fix (log 12), so its value is not stated. -/
def Obligations.BuildStepWritesOneEntry : Prop :=
  ∀ s : State, s.engine.seq = .building → ∀ h : s.engine.idx.toNat < 256,
    ∃ t, engineStep s = .next t ∧
      t = { s with
            table := s.table.set s.engine.idx.toNat (tableEntry s.latched (s.engine.idx.setWidth 8)) h
            status :=
              if s.engine.idx = 255 then { s.status with ready := true, done := true } else s.status
            engine :=
              { s.engine with
                seq := if s.engine.idx = 255 then .idle else .building, r := t.engine.r, idx := s.engine.idx + 1 } }

/-- R108: an accepted BUILD takes exactly 256 engine steps, writes entry n in step n, is BUILDING and not READY until the last,
and then has every entry equal to TABLE_ENTRY of the latched configuration, READY and DONE set and the engine IDLE. -/
def Obligations.BuildRunsToCompletion : Prop :=
  ∀ s : State,
    s.engine.seq = .idle → 1 ≤ s.staging.hashSize.toNat → s.staging.hashSize.toNat ≤ 32 →
    (s.cfg.paramCheck = .reject →
      (s.staging.poly ||| s.staging.init ||| s.staging.xorout) &&& ~~~ maskOf s.staging.hashSize.toNat = 0) →
    ∃ a t, exec .build s = .next a ∧
      (∀ n, n < 256 →
        ∃ u, engineRun n a = .next u ∧ u.engine.seq = .building ∧ u.engine.idx.toNat = n ∧ u.status = a.status ∧
          a.status.ready = false ∧ (∀ b : Byte, b.toNat < n → u.entry b = tableEntry a.latched b) ∧
          (∀ b : Byte, n ≤ b.toNat → u.entry b = s.entry b)) ∧
      engineRun 256 a = .next t ∧ (∀ b : Byte, t.entry b = tableEntry a.latched b) ∧
      t = { a with
            status := { a.status with ready := true, done := true }
            table := t.table
            engine := { a.engine with seq := .idle, r := t.engine.r, idx := 256 } }

/-- R107: two completed BUILDs from equal staging values leave identical tables, whatever else differs. -/
def Obligations.BuildTableIsStable : Prop :=
  ∀ s s' : State,
    s.engine.seq = .idle → s'.engine.seq = .idle → s.staging = s'.staging →
    s.configError = false → s'.configError = false →
    ∃ a a' t t' : State,
      exec .build s = .next a ∧ exec .build s' = .next a' ∧
      engineRun 256 a = .next t ∧ engineRun 256 a' = .next t' ∧ t.engine.seq = .idle ∧ t'.engine.seq = .idle ∧
      t.table = t'.table ∧ t.latched = t'.latched

/-- R127, one step: a byte of plain memory that no one raced is folded; a BusError aborts and records BUS with RESULT, DONE and
READY kept; with all C_LEN bytes folded, RESULT, DONE and IDLE. A device's byte or a raced one is folded as the next free value
(R63; log 7, log 8). -/
def Obligations.ComputeStepFoldsOneByte : Prop :=
  ∀ s : State, s.engine.seq = .computing →
    let addr := s.engine.cBase.toNat + s.engine.cOff.toNat + s.engine.i.toNat
    (s.engine.i.toNat < s.engine.cLen.toNat → addr < 2 ^ 32 →
      (regionKindAt s.cfg addr = .memory → addr ∉ s.trace.raced →
        engineStep s =
          .next
            { s with
              portLog := s.portLog ++ [addr]
              trace := { s.trace with folded := s.trace.folded ++ [Memory.read s.mem addr] }
              engine :=
                { s.engine with
                  crc := fold s.latched s.table s.engine.crc (Memory.read s.mem addr), i := s.engine.i + 1 } }) ∧
      (regionKindAt s.cfg addr = .device ∨ (regionKindAt s.cfg addr = .memory ∧ addr ∈ s.trace.raced) →
        engineStep s =
          .next
            { s with
              portLog := s.portLog ++ [addr]
              draws := s.draws + 1
              trace := { s.trace with folded := s.trace.folded ++ [Config.freeByte s.draws] }
              engine :=
                { s.engine with
                  crc := fold s.latched s.table s.engine.crc (Config.freeByte s.draws), i := s.engine.i + 1 } }) ∧
      (regionKindAt s.cfg addr = .busError →
        engineStep s =
          .next
            { s with
              portLog := s.portLog ++ [addr]
              status := (s.raiseError .bus).status
              engine := { s.engine with seq := .idle } })) ∧
    (s.engine.cLen.toNat ≤ s.engine.i.toNat →
      engineStep s =
        .next
          { s with
            result := (s.engine.crc ^^^ s.latched.xorout) &&& s.latched.mask
            status := { s.status with done := true }
            engine := { s.engine with seq := .idle } })

/-- R128, R127: an accepted COMPUTE whose range answers no BusError takes exactly LENGTH + 1 engine steps, keeps the previous
RESULT until the last, and leaves CRC_OF of the bytes read; a byte of plain memory is the one stored there. Nothing else of the
block's visible state changes but DONE. -/
def Obligations.ComputeRunsToResult : Prop :=
  ∀ s : State,
    s.engine.seq = .idle → s.status.ready = true →
    s.args.offset.toNat + s.args.length.toNat ≤ s.args.bufSize.toNat →
    s.args.bufBase.toNat + s.args.bufSize.toNat ≤ 2 ^ 32 →
    (∀ k, k < s.args.length.toNat →
      regionKindAt s.cfg (s.args.bufBase.toNat + s.args.offset.toNat + k) ≠ .busError) →
    ∃ (a t : State) (bytes : List Byte),
      exec .compute s = .next a ∧
      (∀ n, n ≤ s.args.length.toNat →
        ∃ u, engineRun n a = .next u ∧ u.engine.seq = .computing ∧ u.result = s.result ∧ u.status = s.status) ∧
      engineRun (s.args.length.toNat + 1) a = .next t ∧
      bytes.length = s.args.length.toNat ∧
      (∀ k (h : k < bytes.length),
        regionKindAt s.cfg (s.args.bufBase.toNat + s.args.offset.toNat + k) = .memory →
        bytes[k] = Memory.read s.mem (s.args.bufBase.toNat + s.args.offset.toNat + k)) ∧
      t.result = crcOf s.latched s.table bytes ∧ t.engine.seq = .idle ∧
      t = { s with
            result := t.result
            status := { s.status with done := true }
            engine := t.engine
            trace := t.trace
            draws := t.draws
            portLog := t.portLog }

/-- R56: an accepted COMPUTE requests exactly the LENGTH addresses of its range, each once, ascending, all below 2^32, and stops
after the first BusError; acceptance and rejection request none. In any run, a step requests an address only when it is a fold step
of a COMPUTE, and then that step's own address. -/
def Obligations.ComputeRequestsExactlyItsRange : Prop :=
  (∀ s t : State, exec .compute s = .next t → t.portLog = s.portLog) ∧
  (∀ s t : State, step s = .next t →
    (s.Engages .computing → s.engine.i.toNat < s.engine.cLen.toNat →
      t.portLog = s.portLog ++ [s.engine.cBase.toNat + s.engine.cOff.toNat + s.engine.i.toNat]) ∧
    (¬ (s.Engages .computing ∧ s.engine.i.toNat < s.engine.cLen.toNat) → t.portLog = s.portLog)) ∧
  ∀ s a : State,
    s.engine.seq = .idle → exec .compute s = .next a → a.engine.seq = .computing →
    let start := s.args.bufBase.toNat + s.args.offset.toNat
    (start + s.args.length.toNat ≤ s.args.bufBase.toNat + s.args.bufSize.toNat ∧
      s.args.bufBase.toNat + s.args.bufSize.toNat ≤ 2 ^ 32 ∧ ∀ k, k < s.args.length.toNat → start + k < 2 ^ 32) ∧
    ((∀ k, k < s.args.length.toNat → regionKindAt s.cfg (start + k) ≠ .busError) →
      ∃ t, engineRun (s.args.length.toNat + 1) a = .next t ∧ t.engine.seq = .idle ∧
        t.portLog = s.portLog ++ (List.range s.args.length.toNat).map (start + ·)) ∧
    (∀ k, k < s.args.length.toNat → regionKindAt s.cfg (start + k) = .busError →
      (∀ j, j < k → regionKindAt s.cfg (start + j) ≠ .busError) →
      ∃ t, engineRun (k + 1) a = .next t ∧ t.engine.seq = .idle ∧
        t.portLog = s.portLog ++ (List.range (k + 1)).map (start + ·))

/-- R167, R163: a COMPUTE aborted by the BusError of its k-th address leaves everything the host can see as before its
acceptance but the error fields; the engine is IDLE. -/
def Obligations.BusErrorAbortIsPrecise : Prop :=
  ∀ s a : State,
    s.engine.seq = .idle → exec .compute s = .next a → a.engine.seq = .computing →
    ∀ k, k < s.args.length.toNat →
      regionKindAt s.cfg (s.args.bufBase.toNat + s.args.offset.toNat + k) = .busError →
      (∀ j, j < k → regionKindAt s.cfg (s.args.bufBase.toNat + s.args.offset.toNat + j) ≠ .busError) →
      ∃ t, engineRun (k + 1) a = .next t ∧ t.engine.seq = .idle ∧
        t = { s with
              status := (s.raiseError .bus).status
              engine := t.engine
              trace := t.trace
              draws := t.draws
              portLog := t.portLog }

/-- R130: a COMPUTE, at its acceptance or rejection and in each of its engine steps, changes RESULT, DONE, BUSY, the error fields
and its internal registers at most; never TABLE, L, READY, the staging or argument registers, or memory. The error fields change
only when an error is raised. -/
def Obligations.ComputeWritesOnlyItsOwn : Prop :=
  ∀ s t : State,
    (exec .compute s = .next t → t.result = s.result ∧ t.status.done = s.status.done) ∧
    (exec .compute s = .next t ∨ (s.engine.seq = .computing ∧ engineStep s = .next t) →
      t.table = s.table ∧ t.latched = s.latched ∧ t.status.ready = s.status.ready ∧ t.staging = s.staging ∧
        t.args = s.args ∧ t.tblIndex = s.tblIndex ∧ t.cfg = s.cfg ∧ t.host = s.host ∧
        (∀ a, Memory.read t.mem a = Memory.read s.mem a)) ∧
    (exec .compute s = .next t → t.status = s.status ∨ ∃ code, code ≠ .none ∧ t = s.raiseError code) ∧
    (s.engine.seq = .computing → engineStep s = .next t →
      regionKindAt s.cfg (s.engine.cBase.toNat + s.engine.cOff.toNat + s.engine.i.toNat) ≠ .busError →
      t.status.err = s.status.err ∧ t.status.errCode = s.status.errCode ∧ t.status.errLost = s.status.errLost)

/-! ## Buffer memory -/

/-- R12, R50: the block writes no memory. In a step from a state with canonical memory every address reads as before, but for
the one byte a host (or other agent's) buffer write puts there. -/
def Obligations.OnlyBufferWritesChangeMemory : Prop :=
  ∀ s t : State, Memory.wf s.mem = true → step s = .next t →
    (∀ a b, s.Stores a b →
      ∀ x : Nat, Memory.read t.mem x = if x = a.toNat then b else Memory.read s.mem x) ∧
    ((∀ a b, ¬ s.Stores a b) → ∀ x : Nat, Memory.read t.mem x = Memory.read s.mem x)

/-- R63 (log 8): a byte of plain memory written in the range of a running COMPUTE is folded as a free draw: if it is still to be
folded, its read answers the next free value; if it is folded already, the running register is that of the bytes with the next
free value in its place. Any other buffer write leaves the running COMPUTE alone. -/
def Obligations.RacingWriteFoldsFreeByte : Prop :=
  ∀ (s : State) (a : Word) (b : Byte),
    let start := s.engine.cBase.toNat + s.engine.cOff.toNat
    (s.engine.seq = .computing → start + s.engine.i.toNat ≤ a.toNat → a.toNat < start + s.engine.cLen.toNat →
      regionKindAt s.cfg a.toNat = .memory →
      ((s.storeByte a b).memRead a.toNat).1 = .byte (Config.freeByte s.draws) ∧
        ((s.storeByte a b).memRead a.toNat).2.draws = s.draws + 1 ∧ (s.storeByte a b).engine = s.engine) ∧
    (s.engine.seq = .computing → start ≤ a.toNat → a.toNat < start + s.engine.i.toNat →
      a.toNat < start + s.engine.cLen.toNat →
      (s.storeByte a b).engine =
        { s.engine with
          crc := crcRun s.latched s.table (s.trace.folded.set (a.toNat - start) (Config.freeByte s.draws)) } ∧
        (s.storeByte a b).draws = s.draws + 1) ∧
    (s.engine.seq ≠ .computing ∨ a.toNat < start ∨ start + s.engine.cLen.toNat ≤ a.toNat →
      s.storeByte a b = { s with mem := Memory.write s.mem a.toNat b })

/-! ## Registers -/

/-- R23, R30, R34: the STATUS word, bit by bit; BUSY is 1 exactly when the engine is not IDLE. -/
def Obligations.StatusReadsItsFields : Prop :=
  ∀ s : State,
    ((s.readReg .status).getLsbD 0 = true ↔ s.engine.seq ≠ .idle) ∧
    (s.readReg .status).getLsbD 1 = s.status.ready ∧ (s.readReg .status).getLsbD 2 = s.status.done ∧
    (s.readReg .status).getLsbD 3 = s.status.err ∧
    (s.readReg .status).extractLsb' 4 4 = s.status.errCode.code ∧
    (s.readReg .status).getLsbD 8 = s.status.errLost ∧
    ((s.readReg .status).getLsbD 9 = true ↔ s.latched.refout = true ∧ s.latched.width ≠ 8) ∧
    ∀ k, 10 ≤ k → (s.readReg .status).getLsbD k = false

/-- R36, R37: TBL_DATA reads the selected entry while READY = 1 and 0 otherwise; MASK, CFG, CFG_POLY, CFG_INIT and CFG_XOROUT read
the latched configuration; TBL_INDEX keeps 8 bits; writes to the read-only registers are ignored. -/
def Obligations.ReadbackRegistersShowLatchedState : Prop :=
  ∀ s : State,
    (s.status.ready = true → s.readReg .tblData = s.entry s.tblIndex) ∧
    (s.status.ready = false → s.readReg .tblData = 0) ∧
    s.readReg .mask = s.latched.mask ∧
    ((s.readReg .cfg).extractLsb' 0 6 = s.latched.width ∧ (s.readReg .cfg).getLsbD 6 = false ∧
      (s.readReg .cfg).getLsbD 7 = false ∧ (s.readReg .cfg).getLsbD 8 = s.latched.refin ∧
      (s.readReg .cfg).getLsbD 9 = s.latched.refout ∧ ∀ k, 10 ≤ k → (s.readReg .cfg).getLsbD k = false) ∧
    s.readReg .cfgPoly = s.latched.poly ∧ s.readReg .cfgInit = s.latched.init ∧ s.readReg .cfgXorout = s.latched.xorout ∧
    (∀ reg ∈ [Reg.result, .tblData, .mask, .cfg, .cfgPoly, .cfgInit, .cfgXorout],
      ∀ v, s.writeReg reg v = .next s) ∧
    ∀ v : Word, ∃ t, s.writeReg .tblIndex v = .next t ∧ t.tblIndex = v.extractLsb' 0 8 ∧
      (t.readReg .tblIndex).toNat = v.toNat % 256

/-- R38: reserved offsets read 0 and ignore writes; reserved bits of the defined registers read 0 and writing them has no effect,
CMD apart, where a nonzero reserved field makes the command illegal. -/
def Obligations.ReservedReadsZeroIgnoresWrites : Prop :=
  ∀ (s : State) (v : Word),
    (∀ off : BitVec 8, off.toNat % 4 = 0 → 0x4C ≤ off.toNat →
      s.readReg (regAt off) = 0 ∧ s.portAccess off (.write v) = .next s) ∧
    (∀ k, 6 ≤ k → (s.readReg .width).getLsbD k = false) ∧ (∀ k, 2 ≤ k → (s.readReg .mode).getLsbD k = false) ∧
    (∀ k, 8 ≤ k → (s.readReg .tblIndex).getLsbD k = false) ∧ (∀ k, 10 ≤ k → (s.readReg .status).getLsbD k = false) ∧
    (∀ k, 10 ≤ k → (s.readReg .cfg).getLsbD k = false) ∧
    s.writeReg .width v = s.writeReg .width (v &&& 0x3F) ∧ s.writeReg .mode v = s.writeReg .mode (v &&& 0x3) ∧
    s.writeReg .tblIndex v = s.writeReg .tblIndex (v &&& 0xFF) ∧ s.writeReg .status v = s.writeReg .status (v &&& 0xC) ∧
    (v.extractLsb' 4 28 ≠ 0 → s.writeReg .cmd v = .next (s.raiseError .badCmd))

/-- R143: what a write of `v` at each offset does, in any engine state; at offset 0, a dispatch. -/
def Obligations.RegisterWriteEffects : Prop :=
  ∀ (s : State) (v : Word),
    let write (off : BitVec 8) := s.portAccess off (.write v)
    write 0x00 = dispatch s v ∧
    (∃ t, write 0x04 = .next t ∧
      t = { s with status := t.status } ∧ t.status.ready = s.status.ready ∧
      t.status.done = (s.status.done && !v.getLsbD 2) ∧ t.status.err = (s.status.err && !v.getLsbD 3) ∧
      t.status.errCode = (if v.getLsbD 3 then .none else s.status.errCode) ∧
      t.status.errLost = (s.status.errLost && !v.getLsbD 3)) ∧
    write 0x08 = .next { s with staging := { s.staging with hashSize := v.extractLsb' 0 6 } } ∧
    write 0x0C = .next { s with staging := { s.staging with refin := v.getLsbD 0, refout := v.getLsbD 1 } } ∧
    write 0x10 = .next { s with staging := { s.staging with poly := v } } ∧
    write 0x14 = .next { s with staging := { s.staging with init := v } } ∧
    write 0x18 = .next { s with staging := { s.staging with xorout := v } } ∧
    write 0x1C = .next { s with args := { s.args with bufBase := v } } ∧
    write 0x20 = .next { s with args := { s.args with bufSize := v } } ∧
    write 0x24 = .next { s with args := { s.args with offset := v } } ∧
    write 0x28 = .next { s with args := { s.args with length := v } } ∧
    write 0x30 = .next { s with tblIndex := v.extractLsb' 0 8 } ∧
    ∀ off : BitVec 8, off.toNat % 4 = 0 → off = 0x2C ∨ 0x34 ≤ off.toNat → write off = .next s

/-- R184, R27, R29: a read right after a write to a read-write register returns the written value, cut to the register's bits,
whatever the engine is doing. The other read-write registers, STATUS, RESULT, MASK, CFG, CFG_POLY, CFG_INIT and CFG_XOROUT read as
before; nothing is said of TBL_DATA, which follows TBL_INDEX (R36). -/
def Obligations.WriteThenReadReturnsValue : Prop :=
  ∀ (s : State) (v : Word),
    ∀ entry ∈ [(Reg.width, 0x3F#32), (.mode, 0x3#32), (.poly, 0xFFFFFFFF#32), (.init, 0xFFFFFFFF#32),
        (.xorout, 0xFFFFFFFF#32), (.bufBase, 0xFFFFFFFF#32), (.bufSize, 0xFFFFFFFF#32), (.offset, 0xFFFFFFFF#32),
        (.length, 0xFFFFFFFF#32), (.tblIndex, 0xFF#32)],
      ∃ t, s.writeReg entry.1 v = .next t ∧ t.readReg entry.1 = v &&& entry.2 ∧
        ∀ other ∈ [Reg.width, .mode, .poly, .init, .xorout, .bufBase, .bufSize, .offset, .length, .tblIndex, .status,
            .result, .mask, .cfg, .cfgPoly, .cfgInit, .cfgXorout],
          other ≠ entry.1 → t.readReg other = s.readReg other

/-- R142, R57: a register read by the host returns the register's value at that instant and changes nothing of the block, in any
engine state; CMD reads 0. -/
def Obligations.ReadReturnsRegisterAndChangesNothing : Prop :=
  ∀ (s : State) (off : BitVec 8) (rest : List HostOp),
    s.nextAgent = .host → off.toNat % 4 = 0 →
    s.host.ops = .access { addr := s.cfg.blockBase + off.toNat, size := .word, kind := .read } :: rest →
    step s =
      .next
        { s with
          host :=
            { ops := rest, schedule := s.host.schedule.tail
              rdLog := s.host.rdLog ++ [{ offset := off, value := s.readReg (regAt off) }] } } ∧
    (off = 0 → s.readReg (regAt off) = 0) ∧ (0x4C ≤ off.toNat → s.readReg (regAt off) = 0)

/-- R53: a register-port access of 8 or 16 bits, or at an offset that is no multiple of 4, is refused. Which refusal an access that
is both narrow and misaligned gets, the narrow one, is the model's choice (log 10). -/
def Obligations.UndefinedAccessIsRefused : Prop :=
  ∀ (s : State) (a : BusAccess) (rest : List HostOp),
    s.nextAgent = .host → s.host.ops = .access a :: rest →
    s.cfg.blockBase ≤ a.addr → a.addr < s.cfg.blockBase + 256 →
    (a.size ≠ .word → step s = .refused .narrowAccess) ∧
    (a.size = .word → (a.addr - s.cfg.blockBase) % 4 ≠ 0 → step s = .refused .misalignedAccess)

/-! ## Who may change what, over all steps -/

/-- R28: the latched configuration changes only at an accepted BUILD, to the staging registers and their mask, or by reset. -/
def Obligations.LatchedChangesOnlyAtBuild : Prop :=
  ∀ s t : State, step s = .next t →
    t.latched = s.latched ∨
    (s.WritesCmd 1 ∧ s.engine.seq = .idle ∧ t.engine.seq = .building ∧ t.latched.width = s.staging.hashSize ∧
      t.latched.refin = s.staging.refin ∧ t.latched.refout = s.staging.refout ∧ t.latched.poly = s.staging.poly ∧
      t.latched.init = s.staging.init ∧ t.latched.xorout = s.staging.xorout ∧
      t.latched.mask = maskOf s.staging.hashSize.toNat) ∨
    s.Resets

/-- R24: only a BUILD's steps (and reset) write the table, one entry each; while READY = 1 nothing but reset does. -/
def Obligations.TableChangesOnlyInBuild : Prop :=
  ∀ s t : State, step s = .next t →
    (t.table = s.table ∨
      (s.Engages .building ∧ ∀ b : Byte, t.entry b ≠ s.entry b →
        b.toNat = s.engine.idx.toNat ∧ t.entry b = tableEntry s.latched b) ∨
      s.Resets) ∧
    (s.Inv → s.status.ready = true → t.table = s.table ∨ s.Resets)

/-- R31: READY is cleared by an accepted BUILD and by reset, set by the last step of a BUILD, and changed by nothing else; a
rejected BUILD (BAD_CMD, BUSY or CONFIG) leaves READY, the latched configuration and the table. -/
def Obligations.ReadyChangesOnlyByRule : Prop :=
  ∀ s t : State, step s = .next t →
    (s.WritesCmd 1 → s.engine.seq = .idle → t.engine.seq = .building → t.status.ready = false) ∧
    (s.Engages .building → t.engine.seq = .idle → t.status.ready = true) ∧
    (s.Resets → t.status.ready = false) ∧
    (t.status.ready ≠ s.status.ready →
      (s.WritesCmd 1 ∧ s.engine.seq = .idle ∧ t.engine.seq = .building) ∨
      (s.Engages .building ∧ t.engine.seq = .idle) ∨ s.Resets) ∧
    (∀ v, s.WritesCmd v → v ≠ 1 ∨ s.engine.seq ≠ .idle ∨ t.engine.seq = .idle →
      t.status.ready = s.status.ready ∧ t.latched = s.latched ∧ t.table = s.table)

/-- R32: DONE is set by the completing step of a BUILD or COMPUTE and cleared by a STATUS write with bit 2 set (and by reset);
starting a command does not clear it and no error sets it. -/
def Obligations.DoneChangesOnlyByRule : Prop :=
  ∀ s t : State, step s = .next t →
    (s.Engages .building → t.engine.seq = .idle → t.status.done = true) ∧
    (s.Engages .computing → s.engine.cLen.toNat ≤ s.engine.i.toNat → t.status.done = true) ∧
    (s.Engages .computing → s.engine.i.toNat < s.engine.cLen.toNat → t.status.done = s.status.done) ∧
    (∀ v, s.WritesCmd v → t.status.done = s.status.done) ∧
    (∀ v, s.WritesReg .status v → t.status.done = (s.status.done && !v.getLsbD 2)) ∧
    (t.status.done ≠ s.status.done →
      (s.Engages .building ∧ t.engine.seq = .idle) ∨ s.Engages .computing ∨ (∃ v, s.WritesReg .status v) ∨ s.Resets)

/-- R35: only the completing step of a COMPUTE writes RESULT, with FINAL of the running register, a value below 2^hashSize; reset
sets it to 0. -/
def Obligations.ResultChangesOnlyAtCompletion : Prop :=
  ∀ s t : State, s.Inv → step s = .next t →
    (s.Engages .computing → s.engine.cLen.toNat ≤ s.engine.i.toNat →
      t.result = (s.engine.crc ^^^ s.latched.xorout) &&& s.latched.mask ∧ t.result.toNat < 2 ^ s.latched.width.toNat ∧
        t.engine.seq = .idle) ∧
    (s.Resets → t.result = 0) ∧
    (¬ (s.Engages .computing ∧ s.engine.cLen.toNat ≤ s.engine.i.toNat) → ¬ s.Resets → t.result = s.result)

/-- R22: only an accepted BUILD or COMPUTE leaves IDLE, and a busy engine stays in its command until it is IDLE again. -/
def Obligations.OnlyAcceptedCommandsLeaveIdle : Prop :=
  ∀ s t : State, step s = .next t →
    (s.engine.seq = .idle → t.engine.seq ≠ .idle →
      (s.WritesCmd 1 ∧ t.engine.seq = .building) ∨ (s.WritesCmd 2 ∧ t.engine.seq = .computing)) ∧
    (s.engine.seq ≠ .idle → t.engine.seq = s.engine.seq ∨
      (t.engine.seq = .idle ∧ (s.Engages s.engine.seq ∨ s.Resets)))

/-- R27, R29, R62, R188: a host write to any register but CMD leaves the running command, the latched configuration, the table,
READY, RESULT and the buffer memory alone. -/
def Obligations.RegisterWriteDoesNotReachRunningCommand : Prop :=
  ∀ (s t : State) (reg : Reg) (v : Word), reg ≠ .cmd → s.WritesReg reg v → step s = .next t →
    t.engine = s.engine ∧ t.latched = s.latched ∧ t.table = s.table ∧ t.status.ready = s.status.ready ∧
      t.result = s.result ∧ t.trace = s.trace ∧ t.draws = s.draws ∧ t.portLog = s.portLog ∧ t.cfg = s.cfg ∧
      ∀ a, Memory.read t.mem a = Memory.read s.mem a

/-- R180, R39: reset, in any state, leaves STATUS, every read-write register, RESULT and the latched configuration 0 and the engine
IDLE; the parameters, the buffer memory and the host's side stay (the model's reading, log 15). -/
def Obligations.ResetLeavesRuleValues : Prop :=
  ∀ (s : State) (rest : List HostOp), s.nextAgent = .host → s.host.ops = .reset :: rest →
    ∃ t, step s = .next t ∧ t.engine.seq = .idle ∧
      (∀ reg : Reg, t.readReg reg = 0) ∧
      t.latched =
        { width := 0, refin := false, refout := false, poly := 0, init := 0, xorout := 0, mask := 0 } ∧
      t.cfg = s.cfg ∧ (∀ a, Memory.read t.mem a = Memory.read s.mem a) ∧
      t.host = { ops := rest, schedule := s.host.schedule.tail, rdLog := s.host.rdLog }

/-! ## The datapath -/

/-- R100: REV8 reverses bits 0..7 and ignores the rest; twice, it gives the low byte. -/
def Obligations.Rev8ReversesLowByte : Prop :=
  ∀ v : Word,
    (∀ k, (rev8 v).getLsbD k = (decide (k < 8) && v.getLsbD (7 - k))) ∧ (rev8 v).toNat ≤ 0xFF ∧
      rev8 (rev8 v) = v &&& 0xFF

/-- R101: MASK has exactly the bits below the width set. -/
def Obligations.MaskHasWidthOnes : Prop :=
  ∀ w : Nat, 1 ≤ w → w ≤ 32 → (maskOf w).toNat = 2 ^ w - 1 ∧ ∀ k, (maskOf w).getLsbD k = decide (k < w)

/-- R103: CRC_STEP shifts left by one, truncated to 32 bits, and XORs all of POLY exactly when bit WIDTH - 1 was set. -/
def Obligations.CrcStepTestsTopBit : Prop :=
  ∀ (l : Latched) (r : Word), 1 ≤ l.w → l.w ≤ 32 →
    crcStep l r =
      if r.getLsbD (l.w - 1) then BitVec.ofNat 32 (r.toNat * 2) ^^^ l.poly else BitVec.ofNat 32 (r.toNat * 2)

/-- R104 items 1 and 2: entry 0 is 0 and TABLE_ENTRY is linear over GF(2), for every configuration. The spec gives CRC_STEP for
widths 1..32 only; that the statement also holds outside rests on the model's choice there (log 17). -/
def Obligations.TableEntryIsLinear : Prop :=
  ∀ l : Latched,
    tableEntry l 0 = 0 ∧ ∀ a b : Byte, tableEntry l (a ^^^ b) = tableEntry l a ^^^ tableEntry l b

/-- R104 items 3, 4 and 5: with REFOUT = 1 an entry fits a byte; with REFIN = 1 and a width of 16 or more the entries have the
closed forms of the rule. That the first clause also speaks of widths outside 1..32 is the model's choice there (log 17). -/
def Obligations.ReflectedTableClosedForms : Prop :=
  ∀ (p : Staging) (b : Byte),
    (p.refout = true → (tableEntry p.latch b).toNat ≤ 0xFF) ∧
    (p.refin = true → p.refout = false → 16 ≤ p.w → p.w ≤ 32 →
      tableEntry p.latch b = (rev8 (b.setWidth 32) <<< 8) &&& maskOf p.w) ∧
    (p.refin = true → p.refout = true → 16 ≤ p.w → p.w ≤ 32 → tableEntry p.latch b = 0)

/-- R106: for widths of 8 or more, bits of POLY, INIT and XOROUT above the width change no table entry and no result; excess
XOROUT bits change no result at any width. -/
def Obligations.ExcessBitsHaveNoEffect : Prop :=
  ∀ p q : Staging,
    q.hashSize = p.hashSize → q.refin = p.refin → q.refout = p.refout → 1 ≤ p.w → p.w ≤ 32 →
    (8 ≤ p.w → q.poly &&& maskOf p.w = p.poly &&& maskOf p.w → q.init &&& maskOf p.w = p.init &&& maskOf p.w →
      q.xorout &&& maskOf p.w = p.xorout &&& maskOf p.w →
      builtTable q.latch = builtTable p.latch ∧
        ∀ bytes, crcOf q.latch (builtTable q.latch) bytes = crcOf p.latch (builtTable p.latch) bytes) ∧
    (q.poly = p.poly → q.init = p.init → q.xorout &&& maskOf p.w = p.xorout &&& maskOf p.w →
      ∀ bytes, crcOf q.latch (builtTable q.latch) bytes = crcOf p.latch (builtTable p.latch) bytes)

/-- R102: the index, as a number, is reflected within a byte, or moved to the top byte of a width above 8, or used unshifted; 8
steps of CRC_STEP, the reflection of the low byte when REFOUT = 1, and the mask at the end make the entry. -/
def Obligations.TableEntryFollowsTheRule : Prop :=
  ∀ (l : Latched) (idx : Byte), 1 ≤ l.w → l.w ≤ 32 →
    let seed :=
      if l.refin then rev8 (BitVec.ofNat 32 idx.toNat)
      else BitVec.ofNat 32 (idx.toNat * 2 ^ max 0 (l.w - 8))
    let r := (crcStep l)^[8] seed
    tableEntry l idx = (if l.refout then rev8 r else r) &&& l.mask

/-- R120, R122, R123, R124: the two folds, on numbers: the index is the low byte of the (shifted) register XOR the byte,
and the register is shifted by 8; the result is kept to the mask. The rules give FOLD for widths 1..32; outside them the statement
is about the model's choice (log 17). -/
def Obligations.FoldFollowsTheRule : Prop :=
  ∀ (l : Latched) (t : Table) (crc : Word) (d : Byte),
    (fold l t crc d).toNat ≤ l.mask.toNat ∧ fold l t crc d =
      if l.refout then
        (t[(crc.toNat % 256) ^^^ d.toNat]! ^^^ BitVec.ofNat 32 (crc.toNat / 256)) &&& l.mask
      else
        (t[(crc.toNat / 2 ^ (l.width.toNat - 8) % 256) ^^^ d.toNat]! ^^^ BitVec.ofNat 32 (crc.toNat * 256)) &&& l.mask

/-- R122: in a COMPUTE with REFOUT = 1 over a built table the running register fits a byte after any bytes, so FOLD_R is the table
entry alone. -/
def Obligations.ReflectedFoldFitsByte : Prop :=
  ∀ (p : Staging) (bytes : List Byte) (d : Byte), p.refout = true → 1 ≤ p.w → p.w ≤ 32 →
    (crcRun p.latch (builtTable p.latch) bytes).toNat ≤ 0xFF ∧
      fold p.latch (builtTable p.latch) (crcRun p.latch (builtTable p.latch) bytes) d =
        tableEntry p.latch ((crcRun p.latch (builtTable p.latch) bytes).setWidth 8 ^^^ d) &&& maskOf p.w

/-- R129 items 2 and 3: a result is below 2^hashSize; the empty range gives EFF_INIT XOR XOROUT under the mask. -/
def Obligations.ResultInRangeAndEmptyInput : Prop :=
  ∀ (p : Staging) (t : Table) (bytes : List Byte), 1 ≤ p.w → p.w ≤ 32 →
    (crcOf p.latch t bytes).toNat < 2 ^ p.w ∧
      crcOf p.latch t [] = ((if p.refout then rev8 p.init else p.init) ^^^ p.xorout) &&& maskOf p.w

/-- R129 item 7: for width 8, both reflections, INIT 0 and XOROUT 0, a message followed by its own CRC gives 0. -/
def Obligations.ResidueIsZero : Prop :=
  ∀ (p : Staging) (m : List Byte),
    p.hashSize = 8 → p.refin = true → p.refout = true → p.init = 0 → p.xorout = 0 →
    crcOf p.latch (builtTable p.latch) (m ++ [(crcOf p.latch (builtTable p.latch) m).setWidth 8]) = 0

/-- R129 item 5: without reflection and for widths 8..32, the table-driven CRC of any message is the bit-by-bit left-shifting CRC
(the reference is the model's, log 19). -/
def Obligations.TableCrcEqualsBitSerial : Prop :=
  ∀ (p : Staging) (bytes : List Byte),
    p.refin = false → p.refout = false → 8 ≤ p.w → p.w ≤ 32 →
    crcOf p.latch (builtTable p.latch) bytes = serialCrc p bytes

/-! ## The machine -/

/-- The invariant holds in every state the block can be in after reset. -/
def Obligations.StartStatesMeetInvariant : Prop := ∀ s : State, s.Start → s.Inv

/-- The invariant (R40, the canonical memory, the running register as the fold of the bytes read) is kept by every step from
every state that meets it. -/
def Obligations.StepKeepsInvariant : Prop := ∀ s t : State, s.Inv → step s = .next t → t.Inv

/-- R40: in every state of every run from reset, READY = 1 means a width of 1..32, its mask, every entry equal to TABLE_ENTRY and
within the mask, and no BUILD under way; BUILDING means READY = 0. -/
def Obligations.ReachableStatesMeetR40 : Prop :=
  ∀ s : State, s.Reachable →
    (s.status.ready = true →
      1 ≤ s.latched.width.toNat ∧ s.latched.width.toNat ≤ 32 ∧ s.latched.mask = maskOf s.latched.width.toNat ∧
      (∀ b : Byte, s.entry b = tableEntry s.latched b ∧ s.entry b &&& ~~~ s.latched.mask = 0) ∧
      s.engine.seq ≠ .building) ∧
    (s.engine.seq = .building → s.status.ready = false)

/-- R53, R161: from a state that meets the invariant a step never faults, and it is refused exactly when the host's turn is a
register access the block does not define. -/
def Obligations.OnlyUndefinedAccessStops : Prop :=
  ∀ s : State, s.Inv →
    (∀ f, step s ≠ .fault f) ∧
    ((∃ r, step s = .refused r) ↔
      s.nextAgent = .host ∧
        ((∃ a rest, s.host.ops = .access a :: rest ∧ a.wellFormed s.cfg = false) ∨
          (∃ addr mask value rest, s.host.ops = .poll addr mask value :: rest ∧
            BusAccess.wellFormed s.cfg { addr := addr, size := .word, kind := .read } = false)))

/-- R190: past the end of the schedule, a busy engine is IDLE again after at most as many steps as its command has left. -/
def Obligations.BusyEngineReturnsToIdle : Prop :=
  ∀ s : State, s.Inv → s.host.schedule = [] → s.engine.seq ≠ .idle →
    ∃ n t, stepRun n s = .next t ∧ t.engine.seq = .idle ∧
      (s.engine.seq = .building → n = 256 - s.engine.idx.toNat) ∧
      (s.engine.seq = .computing → n ≤ s.engine.cLen.toNat - s.engine.i.toNat + 1)

/-- R39, R109: what the rules leave unspecified is unobservable. States that differ only there answer every step alike, register
reads among them; and an IDLE state with READY = 0 is alike to any other with another table and other datapath registers. -/
def Obligations.UnspecifiedStateIsUnobservable : Prop :=
  (∀ (s : State) (table : Table) (engine : Engine) (trace : FoldTrace),
    s.status.ready = false → s.engine.seq = .idle → engine.seq = .idle →
    s.Alike { s with table := table, engine := engine, trace := trace }) ∧
  ∀ s t : State, s.Alike t →
    (∀ reg : Reg, t.readReg reg = s.readReg reg) ∧
    (∀ s', step s = .next s' → ∃ t', step t = .next t' ∧ s'.Alike t') ∧
    (∀ f, step s = .fault f → step t = .fault f) ∧ (∀ r, step s = .refused r → step t = .refused r)
end

