-- ==== Sys2Proof/Laws/Datapath.lean ====
section
/-! SUPPORT. The small lemmas of the datapath functions. -/

namespace Sys2Proof.Machine

@[simp] theorem Staging.latch_w (p : Staging) : p.latch.w = p.w := rfl

@[simp] theorem crcRun_nil (l : Latched) (t : Table) : crcRun l t [] = effInit l := rfl

/-- One more byte is one more FOLD. -/
theorem crcRun_append_byte (l : Latched) (t : Table) (bytes : List Byte) (d : Byte) :
    crcRun l t (bytes ++ [d]) = fold l t (crcRun l t bytes) d := by
  simp [crcRun]

theorem crcOf_eq (l : Latched) (t : Table) (bytes : List Byte) :
    crcOf l t bytes = (crcRun l t bytes ^^^ l.xorout) &&& l.mask := rfl

@[simp] theorem tableEntry_and_mask (l : Latched) (b : Byte) : tableEntry l b &&& l.mask = tableEntry l b := by
  simp [tableEntry, BitVec.and_assoc]

@[simp] theorem tableEntry_and_not_mask (l : Latched) (b : Byte) : tableEntry l b &&& ~~~ l.mask = 0 := by
  simp [tableEntry, BitVec.and_assoc]

@[simp] theorem fold_and_mask (l : Latched) (t : Table) (crc : Word) (d : Byte) :
    fold l t crc d &&& l.mask = fold l t crc d := by
  unfold fold foldR foldN
  split <;> simp [BitVec.and_assoc]

/-- Reading the table a BUILD leaves. -/
@[simp] theorem tableAt_builtTable (l : Latched) (x : Word) :
    tableAt (builtTable l) x = tableEntry l (x.setWidth 8) := by
  rw [tableAt, builtTable, Vector.getElem_ofFn]; rfl

/-- Two tables that agree on every entry are equal. -/
theorem table_ext {t t' : Table} (h : ∀ b : Byte, t[b.toNat]'b.isLt = t'[b.toNat]'b.isLt) : t = t' := by
  apply Vector.ext
  intro i hi
  have := h (BitVec.ofNat 8 i)
  simpa only [BitVec.toNat_ofNat, Nat.mod_eq_of_lt (show i < 2 ^ 8 from hi)] using this

/-- A word kept to the mask of width `w` is below 2^w. -/
theorem toNat_and_maskOf_lt (x : Word) {w : Nat} (hw : w ≤ 32) : (x &&& maskOf w).toNat < 2 ^ w := by
  have hp : 0 < 2 ^ w := Nat.two_pow_pos w
  have : (maskOf w).toNat ≤ 2 ^ w - 1 := by
    unfold maskOf
    split
    · rw [BitVec.toNat_ofNat]; exact Nat.mod_le _ _
    · have : w = 32 := by omega
      subst this; decide
  calc (x &&& maskOf w).toNat ≤ (maskOf w).toNat := by
        rw [BitVec.toNat_and]; exact Nat.and_le_right
    _ < 2 ^ w := by omega

end Sys2Proof.Machine
end

