-- ==== Sys2Proof/Laws/State.lean ====
section
/-! SUPPORT. What each named operation leaves unchanged in State: one lemma per operation and field, so that no later proof
unfolds a record update. -/

namespace Sys2Proof.Machine

@[simp] theorem State.takeTurn_cfg (s : State) : s.takeTurn.cfg = s.cfg := rfl
@[simp] theorem State.takeTurn_staging (s : State) : s.takeTurn.staging = s.staging := rfl
@[simp] theorem State.takeTurn_args (s : State) : s.takeTurn.args = s.args := rfl
@[simp] theorem State.takeTurn_tblIndex (s : State) : s.takeTurn.tblIndex = s.tblIndex := rfl
@[simp] theorem State.takeTurn_latched (s : State) : s.takeTurn.latched = s.latched := rfl
@[simp] theorem State.takeTurn_status (s : State) : s.takeTurn.status = s.status := rfl
@[simp] theorem State.takeTurn_result (s : State) : s.takeTurn.result = s.result := rfl
@[simp] theorem State.takeTurn_engine (s : State) : s.takeTurn.engine = s.engine := rfl
@[simp] theorem State.takeTurn_table (s : State) : s.takeTurn.table = s.table := rfl
@[simp] theorem State.takeTurn_mem (s : State) : s.takeTurn.mem = s.mem := rfl
@[simp] theorem State.takeTurn_trace (s : State) : s.takeTurn.trace = s.trace := rfl
@[simp] theorem State.takeTurn_draws (s : State) : s.takeTurn.draws = s.draws := rfl
@[simp] theorem State.takeTurn_portLog (s : State) : s.takeTurn.portLog = s.portLog := rfl

@[simp] theorem State.dropOp_cfg (s : State) : s.dropOp.cfg = s.cfg := rfl
@[simp] theorem State.dropOp_staging (s : State) : s.dropOp.staging = s.staging := rfl
@[simp] theorem State.dropOp_args (s : State) : s.dropOp.args = s.args := rfl
@[simp] theorem State.dropOp_tblIndex (s : State) : s.dropOp.tblIndex = s.tblIndex := rfl
@[simp] theorem State.dropOp_latched (s : State) : s.dropOp.latched = s.latched := rfl
@[simp] theorem State.dropOp_status (s : State) : s.dropOp.status = s.status := rfl
@[simp] theorem State.dropOp_result (s : State) : s.dropOp.result = s.result := rfl
@[simp] theorem State.dropOp_engine (s : State) : s.dropOp.engine = s.engine := rfl
@[simp] theorem State.dropOp_table (s : State) : s.dropOp.table = s.table := rfl
@[simp] theorem State.dropOp_mem (s : State) : s.dropOp.mem = s.mem := rfl
@[simp] theorem State.dropOp_trace (s : State) : s.dropOp.trace = s.trace := rfl
@[simp] theorem State.dropOp_draws (s : State) : s.dropOp.draws = s.draws := rfl
@[simp] theorem State.dropOp_portLog (s : State) : s.dropOp.portLog = s.portLog := rfl

@[simp] theorem State.logRead_cfg (s : State) (off : BitVec 8) (v : Word) : (s.logRead off v).cfg = s.cfg := rfl
@[simp] theorem State.logRead_staging (s : State) (off : BitVec 8) (v : Word) : (s.logRead off v).staging = s.staging := rfl
@[simp] theorem State.logRead_args (s : State) (off : BitVec 8) (v : Word) : (s.logRead off v).args = s.args := rfl
@[simp] theorem State.logRead_tblIndex (s : State) (off : BitVec 8) (v : Word) : (s.logRead off v).tblIndex = s.tblIndex := rfl
@[simp] theorem State.logRead_latched (s : State) (off : BitVec 8) (v : Word) : (s.logRead off v).latched = s.latched := rfl
@[simp] theorem State.logRead_status (s : State) (off : BitVec 8) (v : Word) : (s.logRead off v).status = s.status := rfl
@[simp] theorem State.logRead_result (s : State) (off : BitVec 8) (v : Word) : (s.logRead off v).result = s.result := rfl
@[simp] theorem State.logRead_engine (s : State) (off : BitVec 8) (v : Word) : (s.logRead off v).engine = s.engine := rfl
@[simp] theorem State.logRead_table (s : State) (off : BitVec 8) (v : Word) : (s.logRead off v).table = s.table := rfl
@[simp] theorem State.logRead_mem (s : State) (off : BitVec 8) (v : Word) : (s.logRead off v).mem = s.mem := rfl
@[simp] theorem State.logRead_trace (s : State) (off : BitVec 8) (v : Word) : (s.logRead off v).trace = s.trace := rfl
@[simp] theorem State.logRead_draws (s : State) (off : BitVec 8) (v : Word) : (s.logRead off v).draws = s.draws := rfl
@[simp] theorem State.logRead_portLog (s : State) (off : BitVec 8) (v : Word) : (s.logRead off v).portLog = s.portLog := rfl

@[simp] theorem State.request_cfg (s : State) (a : Nat) : (s.request a).cfg = s.cfg := rfl
@[simp] theorem State.request_staging (s : State) (a : Nat) : (s.request a).staging = s.staging := rfl
@[simp] theorem State.request_args (s : State) (a : Nat) : (s.request a).args = s.args := rfl
@[simp] theorem State.request_tblIndex (s : State) (a : Nat) : (s.request a).tblIndex = s.tblIndex := rfl
@[simp] theorem State.request_latched (s : State) (a : Nat) : (s.request a).latched = s.latched := rfl
@[simp] theorem State.request_status (s : State) (a : Nat) : (s.request a).status = s.status := rfl
@[simp] theorem State.request_result (s : State) (a : Nat) : (s.request a).result = s.result := rfl
@[simp] theorem State.request_engine (s : State) (a : Nat) : (s.request a).engine = s.engine := rfl
@[simp] theorem State.request_table (s : State) (a : Nat) : (s.request a).table = s.table := rfl
@[simp] theorem State.request_mem (s : State) (a : Nat) : (s.request a).mem = s.mem := rfl
@[simp] theorem State.request_trace (s : State) (a : Nat) : (s.request a).trace = s.trace := rfl
@[simp] theorem State.request_draws (s : State) (a : Nat) : (s.request a).draws = s.draws := rfl
@[simp] theorem State.request_host (s : State) (a : Nat) : (s.request a).host = s.host := rfl

@[simp] theorem State.clearDone_cfg (s : State) : s.clearDone.cfg = s.cfg := rfl
@[simp] theorem State.clearDone_staging (s : State) : s.clearDone.staging = s.staging := rfl
@[simp] theorem State.clearDone_args (s : State) : s.clearDone.args = s.args := rfl
@[simp] theorem State.clearDone_tblIndex (s : State) : s.clearDone.tblIndex = s.tblIndex := rfl
@[simp] theorem State.clearDone_latched (s : State) : s.clearDone.latched = s.latched := rfl
@[simp] theorem State.clearDone_result (s : State) : s.clearDone.result = s.result := rfl
@[simp] theorem State.clearDone_engine (s : State) : s.clearDone.engine = s.engine := rfl
@[simp] theorem State.clearDone_table (s : State) : s.clearDone.table = s.table := rfl
@[simp] theorem State.clearDone_mem (s : State) : s.clearDone.mem = s.mem := rfl
@[simp] theorem State.clearDone_trace (s : State) : s.clearDone.trace = s.trace := rfl
@[simp] theorem State.clearDone_draws (s : State) : s.clearDone.draws = s.draws := rfl
@[simp] theorem State.clearDone_portLog (s : State) : s.clearDone.portLog = s.portLog := rfl
@[simp] theorem State.clearDone_host (s : State) : s.clearDone.host = s.host := rfl

@[simp] theorem State.clearErr_cfg (s : State) : s.clearErr.cfg = s.cfg := rfl
@[simp] theorem State.clearErr_staging (s : State) : s.clearErr.staging = s.staging := rfl
@[simp] theorem State.clearErr_args (s : State) : s.clearErr.args = s.args := rfl
@[simp] theorem State.clearErr_tblIndex (s : State) : s.clearErr.tblIndex = s.tblIndex := rfl
@[simp] theorem State.clearErr_latched (s : State) : s.clearErr.latched = s.latched := rfl
@[simp] theorem State.clearErr_result (s : State) : s.clearErr.result = s.result := rfl
@[simp] theorem State.clearErr_engine (s : State) : s.clearErr.engine = s.engine := rfl
@[simp] theorem State.clearErr_table (s : State) : s.clearErr.table = s.table := rfl
@[simp] theorem State.clearErr_mem (s : State) : s.clearErr.mem = s.mem := rfl
@[simp] theorem State.clearErr_trace (s : State) : s.clearErr.trace = s.trace := rfl
@[simp] theorem State.clearErr_draws (s : State) : s.clearErr.draws = s.draws := rfl
@[simp] theorem State.clearErr_portLog (s : State) : s.clearErr.portLog = s.portLog := rfl
@[simp] theorem State.clearErr_host (s : State) : s.clearErr.host = s.host := rfl

@[simp] theorem State.markRaced_cfg (s : State) (a : Nat) : (s.markRaced a).cfg = s.cfg := rfl
@[simp] theorem State.markRaced_staging (s : State) (a : Nat) : (s.markRaced a).staging = s.staging := rfl
@[simp] theorem State.markRaced_args (s : State) (a : Nat) : (s.markRaced a).args = s.args := rfl
@[simp] theorem State.markRaced_tblIndex (s : State) (a : Nat) : (s.markRaced a).tblIndex = s.tblIndex := rfl
@[simp] theorem State.markRaced_latched (s : State) (a : Nat) : (s.markRaced a).latched = s.latched := rfl
@[simp] theorem State.markRaced_status (s : State) (a : Nat) : (s.markRaced a).status = s.status := rfl
@[simp] theorem State.markRaced_result (s : State) (a : Nat) : (s.markRaced a).result = s.result := rfl
@[simp] theorem State.markRaced_engine (s : State) (a : Nat) : (s.markRaced a).engine = s.engine := rfl
@[simp] theorem State.markRaced_table (s : State) (a : Nat) : (s.markRaced a).table = s.table := rfl
@[simp] theorem State.markRaced_mem (s : State) (a : Nat) : (s.markRaced a).mem = s.mem := rfl
@[simp] theorem State.markRaced_draws (s : State) (a : Nat) : (s.markRaced a).draws = s.draws := rfl
@[simp] theorem State.markRaced_portLog (s : State) (a : Nat) : (s.markRaced a).portLog = s.portLog := rfl
@[simp] theorem State.markRaced_host (s : State) (a : Nat) : (s.markRaced a).host = s.host := rfl

@[simp] theorem State.redrawFolded_cfg (s : State) (j : Nat) : (s.redrawFolded j).cfg = s.cfg := rfl
@[simp] theorem State.redrawFolded_staging (s : State) (j : Nat) : (s.redrawFolded j).staging = s.staging := rfl
@[simp] theorem State.redrawFolded_args (s : State) (j : Nat) : (s.redrawFolded j).args = s.args := rfl
@[simp] theorem State.redrawFolded_tblIndex (s : State) (j : Nat) : (s.redrawFolded j).tblIndex = s.tblIndex := rfl
@[simp] theorem State.redrawFolded_latched (s : State) (j : Nat) : (s.redrawFolded j).latched = s.latched := rfl
@[simp] theorem State.redrawFolded_status (s : State) (j : Nat) : (s.redrawFolded j).status = s.status := rfl
@[simp] theorem State.redrawFolded_result (s : State) (j : Nat) : (s.redrawFolded j).result = s.result := rfl
@[simp] theorem State.redrawFolded_table (s : State) (j : Nat) : (s.redrawFolded j).table = s.table := rfl
@[simp] theorem State.redrawFolded_mem (s : State) (j : Nat) : (s.redrawFolded j).mem = s.mem := rfl
@[simp] theorem State.redrawFolded_portLog (s : State) (j : Nat) : (s.redrawFolded j).portLog = s.portLog := rfl
@[simp] theorem State.redrawFolded_host (s : State) (j : Nat) : (s.redrawFolded j).host = s.host := rfl

@[simp] theorem State.acceptBuild_cfg (s : State) : s.acceptBuild.cfg = s.cfg := rfl
@[simp] theorem State.acceptBuild_staging (s : State) : s.acceptBuild.staging = s.staging := rfl
@[simp] theorem State.acceptBuild_args (s : State) : s.acceptBuild.args = s.args := rfl
@[simp] theorem State.acceptBuild_tblIndex (s : State) : s.acceptBuild.tblIndex = s.tblIndex := rfl
@[simp] theorem State.acceptBuild_result (s : State) : s.acceptBuild.result = s.result := rfl
@[simp] theorem State.acceptBuild_table (s : State) : s.acceptBuild.table = s.table := rfl
@[simp] theorem State.acceptBuild_mem (s : State) : s.acceptBuild.mem = s.mem := rfl
@[simp] theorem State.acceptBuild_trace (s : State) : s.acceptBuild.trace = s.trace := rfl
@[simp] theorem State.acceptBuild_draws (s : State) : s.acceptBuild.draws = s.draws := rfl
@[simp] theorem State.acceptBuild_portLog (s : State) : s.acceptBuild.portLog = s.portLog := rfl
@[simp] theorem State.acceptBuild_host (s : State) : s.acceptBuild.host = s.host := rfl

@[simp] theorem State.writeEntry_cfg (s : State) (b : Byte) : (s.writeEntry b).cfg = s.cfg := rfl
@[simp] theorem State.writeEntry_staging (s : State) (b : Byte) : (s.writeEntry b).staging = s.staging := rfl
@[simp] theorem State.writeEntry_args (s : State) (b : Byte) : (s.writeEntry b).args = s.args := rfl
@[simp] theorem State.writeEntry_tblIndex (s : State) (b : Byte) : (s.writeEntry b).tblIndex = s.tblIndex := rfl
@[simp] theorem State.writeEntry_latched (s : State) (b : Byte) : (s.writeEntry b).latched = s.latched := rfl
@[simp] theorem State.writeEntry_status (s : State) (b : Byte) : (s.writeEntry b).status = s.status := rfl
@[simp] theorem State.writeEntry_result (s : State) (b : Byte) : (s.writeEntry b).result = s.result := rfl
@[simp] theorem State.writeEntry_mem (s : State) (b : Byte) : (s.writeEntry b).mem = s.mem := rfl
@[simp] theorem State.writeEntry_trace (s : State) (b : Byte) : (s.writeEntry b).trace = s.trace := rfl
@[simp] theorem State.writeEntry_draws (s : State) (b : Byte) : (s.writeEntry b).draws = s.draws := rfl
@[simp] theorem State.writeEntry_portLog (s : State) (b : Byte) : (s.writeEntry b).portLog = s.portLog := rfl
@[simp] theorem State.writeEntry_host (s : State) (b : Byte) : (s.writeEntry b).host = s.host := rfl

@[simp] theorem State.finishBuild_cfg (s : State) : s.finishBuild.cfg = s.cfg := rfl
@[simp] theorem State.finishBuild_staging (s : State) : s.finishBuild.staging = s.staging := rfl
@[simp] theorem State.finishBuild_args (s : State) : s.finishBuild.args = s.args := rfl
@[simp] theorem State.finishBuild_tblIndex (s : State) : s.finishBuild.tblIndex = s.tblIndex := rfl
@[simp] theorem State.finishBuild_latched (s : State) : s.finishBuild.latched = s.latched := rfl
@[simp] theorem State.finishBuild_result (s : State) : s.finishBuild.result = s.result := rfl
@[simp] theorem State.finishBuild_table (s : State) : s.finishBuild.table = s.table := rfl
@[simp] theorem State.finishBuild_mem (s : State) : s.finishBuild.mem = s.mem := rfl
@[simp] theorem State.finishBuild_trace (s : State) : s.finishBuild.trace = s.trace := rfl
@[simp] theorem State.finishBuild_draws (s : State) : s.finishBuild.draws = s.draws := rfl
@[simp] theorem State.finishBuild_portLog (s : State) : s.finishBuild.portLog = s.portLog := rfl
@[simp] theorem State.finishBuild_host (s : State) : s.finishBuild.host = s.host := rfl

@[simp] theorem State.acceptCompute_cfg (s : State) : s.acceptCompute.cfg = s.cfg := rfl
@[simp] theorem State.acceptCompute_staging (s : State) : s.acceptCompute.staging = s.staging := rfl
@[simp] theorem State.acceptCompute_args (s : State) : s.acceptCompute.args = s.args := rfl
@[simp] theorem State.acceptCompute_tblIndex (s : State) : s.acceptCompute.tblIndex = s.tblIndex := rfl
@[simp] theorem State.acceptCompute_latched (s : State) : s.acceptCompute.latched = s.latched := rfl
@[simp] theorem State.acceptCompute_status (s : State) : s.acceptCompute.status = s.status := rfl
@[simp] theorem State.acceptCompute_result (s : State) : s.acceptCompute.result = s.result := rfl
@[simp] theorem State.acceptCompute_table (s : State) : s.acceptCompute.table = s.table := rfl
@[simp] theorem State.acceptCompute_mem (s : State) : s.acceptCompute.mem = s.mem := rfl
@[simp] theorem State.acceptCompute_draws (s : State) : s.acceptCompute.draws = s.draws := rfl
@[simp] theorem State.acceptCompute_portLog (s : State) : s.acceptCompute.portLog = s.portLog := rfl
@[simp] theorem State.acceptCompute_host (s : State) : s.acceptCompute.host = s.host := rfl

@[simp] theorem State.foldByte_cfg (s : State) (d : Byte) : (s.foldByte d).cfg = s.cfg := rfl
@[simp] theorem State.foldByte_staging (s : State) (d : Byte) : (s.foldByte d).staging = s.staging := rfl
@[simp] theorem State.foldByte_args (s : State) (d : Byte) : (s.foldByte d).args = s.args := rfl
@[simp] theorem State.foldByte_tblIndex (s : State) (d : Byte) : (s.foldByte d).tblIndex = s.tblIndex := rfl
@[simp] theorem State.foldByte_latched (s : State) (d : Byte) : (s.foldByte d).latched = s.latched := rfl
@[simp] theorem State.foldByte_status (s : State) (d : Byte) : (s.foldByte d).status = s.status := rfl
@[simp] theorem State.foldByte_result (s : State) (d : Byte) : (s.foldByte d).result = s.result := rfl
@[simp] theorem State.foldByte_table (s : State) (d : Byte) : (s.foldByte d).table = s.table := rfl
@[simp] theorem State.foldByte_mem (s : State) (d : Byte) : (s.foldByte d).mem = s.mem := rfl
@[simp] theorem State.foldByte_draws (s : State) (d : Byte) : (s.foldByte d).draws = s.draws := rfl
@[simp] theorem State.foldByte_portLog (s : State) (d : Byte) : (s.foldByte d).portLog = s.portLog := rfl
@[simp] theorem State.foldByte_host (s : State) (d : Byte) : (s.foldByte d).host = s.host := rfl

@[simp] theorem State.finishCompute_cfg (s : State) : s.finishCompute.cfg = s.cfg := rfl
@[simp] theorem State.finishCompute_staging (s : State) : s.finishCompute.staging = s.staging := rfl
@[simp] theorem State.finishCompute_args (s : State) : s.finishCompute.args = s.args := rfl
@[simp] theorem State.finishCompute_tblIndex (s : State) : s.finishCompute.tblIndex = s.tblIndex := rfl
@[simp] theorem State.finishCompute_latched (s : State) : s.finishCompute.latched = s.latched := rfl
@[simp] theorem State.finishCompute_table (s : State) : s.finishCompute.table = s.table := rfl
@[simp] theorem State.finishCompute_mem (s : State) : s.finishCompute.mem = s.mem := rfl
@[simp] theorem State.finishCompute_trace (s : State) : s.finishCompute.trace = s.trace := rfl
@[simp] theorem State.finishCompute_draws (s : State) : s.finishCompute.draws = s.draws := rfl
@[simp] theorem State.finishCompute_portLog (s : State) : s.finishCompute.portLog = s.portLog := rfl
@[simp] theorem State.finishCompute_host (s : State) : s.finishCompute.host = s.host := rfl

/-! ## What each operation writes -/

@[simp] theorem State.takeTurn_host (s : State) :
    s.takeTurn.host = { s.host with schedule := s.host.schedule.tail } := rfl
@[simp] theorem State.dropOp_host (s : State) : s.dropOp.host = { s.host with ops := s.host.ops.tail } := rfl
@[simp] theorem State.logRead_host (s : State) (off : BitVec 8) (v : Word) :
    (s.logRead off v).host = { s.host with rdLog := s.host.rdLog ++ [{ offset := off, value := v }] } := rfl
@[simp] theorem State.request_portLog (s : State) (a : Nat) : (s.request a).portLog = s.portLog ++ [a] := rfl
@[simp] theorem State.clearDone_status (s : State) : s.clearDone.status = { s.status with done := false } := rfl
@[simp] theorem State.clearErr_status (s : State) :
    s.clearErr.status = { s.status with err := false, errCode := .none, errLost := false } := rfl
@[simp] theorem State.markRaced_trace (s : State) (a : Nat) :
    (s.markRaced a).trace = { s.trace with raced := s.trace.raced.insert a } := rfl
@[simp] theorem State.redrawFolded_trace (s : State) (j : Nat) :
    (s.redrawFolded j).trace = { s.trace with folded := s.trace.folded.set j (Config.freeByte s.draws) } := rfl
@[simp] theorem State.redrawFolded_engine (s : State) (j : Nat) :
    (s.redrawFolded j).engine =
      { s.engine with crc := crcRun s.latched s.table (s.trace.folded.set j (Config.freeByte s.draws)) } := rfl
@[simp] theorem State.redrawFolded_draws (s : State) (j : Nat) : (s.redrawFolded j).draws = s.draws + 1 := rfl
@[simp] theorem State.acceptBuild_latched (s : State) : s.acceptBuild.latched = s.staging.latch := rfl
@[simp] theorem State.acceptBuild_status (s : State) : s.acceptBuild.status = { s.status with ready := false } := rfl
@[simp] theorem State.acceptBuild_engine (s : State) :
    s.acceptBuild.engine = { s.engine with seq := .building, idx := 0 } := rfl
@[simp] theorem State.writeEntry_table (s : State) (b : Byte) :
    (s.writeEntry b).table = s.table.set b.toNat (tableEntry s.latched b) b.isLt := rfl
@[simp] theorem State.writeEntry_engine (s : State) (b : Byte) :
    (s.writeEntry b).engine = { s.engine with r := tableWork s.latched b, idx := s.engine.idx + 1 } := rfl
@[simp] theorem State.finishBuild_status (s : State) :
    s.finishBuild.status = { s.status with ready := true, done := true } := rfl
@[simp] theorem State.finishBuild_engine (s : State) : s.finishBuild.engine = { s.engine with seq := .idle } := rfl
@[simp] theorem State.acceptCompute_engine (s : State) :
    s.acceptCompute.engine =
      { s.engine with
        seq := .computing, crc := effInit s.latched, i := 0, cBase := s.args.bufBase, cOff := s.args.offset,
        cLen := s.args.length } := rfl
@[simp] theorem State.acceptCompute_trace (s : State) : s.acceptCompute.trace = { folded := [], raced := [] } := rfl
@[simp] theorem State.foldByte_engine (s : State) (d : Byte) :
    (s.foldByte d).engine =
      { s.engine with crc := fold s.latched s.table s.engine.crc d, i := s.engine.i + 1 } := rfl
@[simp] theorem State.foldByte_trace (s : State) (d : Byte) :
    (s.foldByte d).trace = { s.trace with folded := s.trace.folded ++ [d] } := rfl
@[simp] theorem State.finishCompute_result (s : State) : s.finishCompute.result = final s.latched s.engine.crc := rfl
@[simp] theorem State.finishCompute_status (s : State) :
    s.finishCompute.status = { s.status with done := true } := rfl
@[simp] theorem State.finishCompute_engine (s : State) : s.finishCompute.engine = { s.engine with seq := .idle } := rfl

/-! ## Operations with a case split -/

@[simp] theorem State.raiseError_cfg (s : State) (c : ErrCode) : (s.raiseError c).cfg = s.cfg := by
  unfold State.raiseError; split <;> rfl
@[simp] theorem State.raiseError_staging (s : State) (c : ErrCode) : (s.raiseError c).staging = s.staging := by
  unfold State.raiseError; split <;> rfl
@[simp] theorem State.raiseError_args (s : State) (c : ErrCode) : (s.raiseError c).args = s.args := by
  unfold State.raiseError; split <;> rfl
@[simp] theorem State.raiseError_tblIndex (s : State) (c : ErrCode) : (s.raiseError c).tblIndex = s.tblIndex := by
  unfold State.raiseError; split <;> rfl
@[simp] theorem State.raiseError_latched (s : State) (c : ErrCode) : (s.raiseError c).latched = s.latched := by
  unfold State.raiseError; split <;> rfl
@[simp] theorem State.raiseError_result (s : State) (c : ErrCode) : (s.raiseError c).result = s.result := by
  unfold State.raiseError; split <;> rfl
@[simp] theorem State.raiseError_engine (s : State) (c : ErrCode) : (s.raiseError c).engine = s.engine := by
  unfold State.raiseError; split <;> rfl
@[simp] theorem State.raiseError_table (s : State) (c : ErrCode) : (s.raiseError c).table = s.table := by
  unfold State.raiseError; split <;> rfl
@[simp] theorem State.raiseError_mem (s : State) (c : ErrCode) : (s.raiseError c).mem = s.mem := by
  unfold State.raiseError; split <;> rfl
@[simp] theorem State.raiseError_trace (s : State) (c : ErrCode) : (s.raiseError c).trace = s.trace := by
  unfold State.raiseError; split <;> rfl
@[simp] theorem State.raiseError_draws (s : State) (c : ErrCode) : (s.raiseError c).draws = s.draws := by
  unfold State.raiseError; split <;> rfl
@[simp] theorem State.raiseError_portLog (s : State) (c : ErrCode) : (s.raiseError c).portLog = s.portLog := by
  unfold State.raiseError; split <;> rfl
@[simp] theorem State.raiseError_host (s : State) (c : ErrCode) : (s.raiseError c).host = s.host := by
  unfold State.raiseError; split <;> rfl

@[simp] theorem State.raiseError_ready (s : State) (c : ErrCode) : (s.raiseError c).status.ready = s.status.ready := by
  unfold State.raiseError; split <;> rfl
@[simp] theorem State.raiseError_done (s : State) (c : ErrCode) : (s.raiseError c).status.done = s.status.done := by
  unfold State.raiseError; split <;> rfl

@[simp] theorem State.writeStatus_cfg (s : State) (v : Word) : (s.writeStatus v).cfg = s.cfg := by
  unfold State.writeStatus; split <;> split <;> rfl
@[simp] theorem State.writeStatus_staging (s : State) (v : Word) : (s.writeStatus v).staging = s.staging := by
  unfold State.writeStatus; split <;> split <;> rfl
@[simp] theorem State.writeStatus_args (s : State) (v : Word) : (s.writeStatus v).args = s.args := by
  unfold State.writeStatus; split <;> split <;> rfl
@[simp] theorem State.writeStatus_tblIndex (s : State) (v : Word) : (s.writeStatus v).tblIndex = s.tblIndex := by
  unfold State.writeStatus; split <;> split <;> rfl
@[simp] theorem State.writeStatus_latched (s : State) (v : Word) : (s.writeStatus v).latched = s.latched := by
  unfold State.writeStatus; split <;> split <;> rfl
@[simp] theorem State.writeStatus_result (s : State) (v : Word) : (s.writeStatus v).result = s.result := by
  unfold State.writeStatus; split <;> split <;> rfl
@[simp] theorem State.writeStatus_engine (s : State) (v : Word) : (s.writeStatus v).engine = s.engine := by
  unfold State.writeStatus; split <;> split <;> rfl
@[simp] theorem State.writeStatus_table (s : State) (v : Word) : (s.writeStatus v).table = s.table := by
  unfold State.writeStatus; split <;> split <;> rfl
@[simp] theorem State.writeStatus_mem (s : State) (v : Word) : (s.writeStatus v).mem = s.mem := by
  unfold State.writeStatus; split <;> split <;> rfl
@[simp] theorem State.writeStatus_trace (s : State) (v : Word) : (s.writeStatus v).trace = s.trace := by
  unfold State.writeStatus; split <;> split <;> rfl
@[simp] theorem State.writeStatus_draws (s : State) (v : Word) : (s.writeStatus v).draws = s.draws := by
  unfold State.writeStatus; split <;> split <;> rfl
@[simp] theorem State.writeStatus_portLog (s : State) (v : Word) : (s.writeStatus v).portLog = s.portLog := by
  unfold State.writeStatus; split <;> split <;> rfl
@[simp] theorem State.writeStatus_host (s : State) (v : Word) : (s.writeStatus v).host = s.host := by
  unfold State.writeStatus; split <;> split <;> rfl

@[simp] theorem State.writeStatus_ready (s : State) (v : Word) : (s.writeStatus v).status.ready = s.status.ready := by
  unfold State.writeStatus; split <;> split <;> rfl

@[simp] theorem State.abortCompute_cfg (s : State) : s.abortCompute.cfg = s.cfg := by
  simp [State.abortCompute]
@[simp] theorem State.abortCompute_staging (s : State) : s.abortCompute.staging = s.staging := by
  simp [State.abortCompute]
@[simp] theorem State.abortCompute_args (s : State) : s.abortCompute.args = s.args := by
  simp [State.abortCompute]
@[simp] theorem State.abortCompute_tblIndex (s : State) : s.abortCompute.tblIndex = s.tblIndex := by
  simp [State.abortCompute]
@[simp] theorem State.abortCompute_latched (s : State) : s.abortCompute.latched = s.latched := by
  simp [State.abortCompute]
@[simp] theorem State.abortCompute_result (s : State) : s.abortCompute.result = s.result := by
  simp [State.abortCompute]
@[simp] theorem State.abortCompute_table (s : State) : s.abortCompute.table = s.table := by
  simp [State.abortCompute]
@[simp] theorem State.abortCompute_mem (s : State) : s.abortCompute.mem = s.mem := by
  simp [State.abortCompute]
@[simp] theorem State.abortCompute_trace (s : State) : s.abortCompute.trace = s.trace := by
  simp [State.abortCompute]
@[simp] theorem State.abortCompute_draws (s : State) : s.abortCompute.draws = s.draws := by
  simp [State.abortCompute]
@[simp] theorem State.abortCompute_portLog (s : State) : s.abortCompute.portLog = s.portLog := by
  simp [State.abortCompute]
@[simp] theorem State.abortCompute_host (s : State) : s.abortCompute.host = s.host := by
  simp [State.abortCompute]
@[simp] theorem State.abortCompute_status (s : State) : s.abortCompute.status = (s.raiseError .bus).status := rfl
@[simp] theorem State.abortCompute_engine (s : State) : s.abortCompute.engine = { s.engine with seq := .idle } := by
  simp [State.abortCompute]

@[simp] theorem State.race_cfg (s : State) (a : Nat) : (s.race a).cfg = s.cfg := by
  unfold State.race; split <;> [split; skip] <;> rfl
@[simp] theorem State.race_staging (s : State) (a : Nat) : (s.race a).staging = s.staging := by
  unfold State.race; split <;> [split; skip] <;> rfl
@[simp] theorem State.race_args (s : State) (a : Nat) : (s.race a).args = s.args := by
  unfold State.race; split <;> [split; skip] <;> rfl
@[simp] theorem State.race_tblIndex (s : State) (a : Nat) : (s.race a).tblIndex = s.tblIndex := by
  unfold State.race; split <;> [split; skip] <;> rfl
@[simp] theorem State.race_latched (s : State) (a : Nat) : (s.race a).latched = s.latched := by
  unfold State.race; split <;> [split; skip] <;> rfl
@[simp] theorem State.race_status (s : State) (a : Nat) : (s.race a).status = s.status := by
  unfold State.race; split <;> [split; skip] <;> rfl
@[simp] theorem State.race_result (s : State) (a : Nat) : (s.race a).result = s.result := by
  unfold State.race; split <;> [split; skip] <;> rfl
@[simp] theorem State.race_table (s : State) (a : Nat) : (s.race a).table = s.table := by
  unfold State.race; split <;> [split; skip] <;> rfl
@[simp] theorem State.race_mem (s : State) (a : Nat) : (s.race a).mem = s.mem := by
  unfold State.race; split <;> [split; skip] <;> rfl
@[simp] theorem State.race_portLog (s : State) (a : Nat) : (s.race a).portLog = s.portLog := by
  unfold State.race; split <;> [split; skip] <;> rfl
@[simp] theorem State.race_host (s : State) (a : Nat) : (s.race a).host = s.host := by
  unfold State.race; split <;> [split; skip] <;> rfl

@[simp] theorem State.storeByte_cfg (s : State) (a : Word) (b : Byte) : (s.storeByte a b).cfg = s.cfg := by
  simp [State.storeByte]
@[simp] theorem State.storeByte_staging (s : State) (a : Word) (b : Byte) : (s.storeByte a b).staging = s.staging := by
  simp [State.storeByte]
@[simp] theorem State.storeByte_args (s : State) (a : Word) (b : Byte) : (s.storeByte a b).args = s.args := by
  simp [State.storeByte]
@[simp] theorem State.storeByte_tblIndex (s : State) (a : Word) (b : Byte) : (s.storeByte a b).tblIndex = s.tblIndex := by
  simp [State.storeByte]
@[simp] theorem State.storeByte_latched (s : State) (a : Word) (b : Byte) : (s.storeByte a b).latched = s.latched := by
  simp [State.storeByte]
@[simp] theorem State.storeByte_status (s : State) (a : Word) (b : Byte) : (s.storeByte a b).status = s.status := by
  simp [State.storeByte]
@[simp] theorem State.storeByte_result (s : State) (a : Word) (b : Byte) : (s.storeByte a b).result = s.result := by
  simp [State.storeByte]
@[simp] theorem State.storeByte_table (s : State) (a : Word) (b : Byte) : (s.storeByte a b).table = s.table := by
  simp [State.storeByte]
@[simp] theorem State.storeByte_portLog (s : State) (a : Word) (b : Byte) : (s.storeByte a b).portLog = s.portLog := by
  simp [State.storeByte]
@[simp] theorem State.storeByte_host (s : State) (a : Word) (b : Byte) : (s.storeByte a b).host = s.host := by
  simp [State.storeByte]
@[simp] theorem State.storeByte_mem (s : State) (a : Word) (b : Byte) : (s.storeByte a b).mem = Memory.write s.mem a.toNat b := by
  simp [State.storeByte]

@[simp] theorem State.blockReset_cfg (s : State) : s.blockReset.cfg = s.cfg := rfl
@[simp] theorem State.blockReset_staging (s : State) : s.blockReset.staging = State.reset.staging := rfl
@[simp] theorem State.blockReset_args (s : State) : s.blockReset.args = State.reset.args := rfl
@[simp] theorem State.blockReset_tblIndex (s : State) : s.blockReset.tblIndex = State.reset.tblIndex := rfl
@[simp] theorem State.blockReset_latched (s : State) : s.blockReset.latched = State.reset.latched := rfl
@[simp] theorem State.blockReset_status (s : State) : s.blockReset.status = State.reset.status := rfl
@[simp] theorem State.blockReset_result (s : State) : s.blockReset.result = State.reset.result := rfl
@[simp] theorem State.blockReset_engine (s : State) : s.blockReset.engine = State.reset.engine := rfl
@[simp] theorem State.blockReset_table (s : State) : s.blockReset.table = State.reset.table := rfl
@[simp] theorem State.blockReset_mem (s : State) : s.blockReset.mem = s.mem := rfl
@[simp] theorem State.blockReset_trace (s : State) : s.blockReset.trace = State.reset.trace := rfl
@[simp] theorem State.blockReset_draws (s : State) : s.blockReset.draws = s.draws := rfl
@[simp] theorem State.blockReset_portLog (s : State) : s.blockReset.portLog = s.portLog := rfl
@[simp] theorem State.blockReset_host (s : State) : s.blockReset.host = s.host := rfl

end Sys2Proof.Machine
end

