-- ==== Sys2Proof/Laws/Memory.lean ====
section
/-! SUPPORT. The buffer memory: read after write, and the canonical form kept by every operation. -/

namespace Sys2Proof.Machine

@[simp] theorem Memory.read_nil (a : Nat) : Memory.read [] a = Memory.unlisted := rfl

theorem Memory.read_cons (k : Nat) (v : Byte) (m : Memory) (a : Nat) :
    Memory.read ((k, v) :: m) a = if k = a then v else Memory.read m a := rfl

theorem Memory.wfFrom_cons {lo k : Nat} {v : Byte} {m : Memory} :
    Memory.wfFrom lo ((k, v) :: m) = true ↔
      lo ≤ k ∧ k < 2 ^ 32 ∧ v ≠ Memory.unlisted ∧ Memory.wfFrom (k + 1) m = true := by
  simp [Memory.wfFrom, and_assoc]

theorem Memory.wfFrom_mono {lo lo' : Nat} {m : Memory} (h : Memory.wfFrom lo' m = true) (hl : lo ≤ lo') :
    Memory.wfFrom lo m = true := by
  cases m with
  | nil => rfl
  | cons kv m =>
    obtain ⟨h1, h⟩ := Memory.wfFrom_cons.1 h
    exact Memory.wfFrom_cons.2 ⟨by omega, h⟩

/-- An address below the first listed one reads as unlisted. -/
theorem Memory.read_of_lt {lo a : Nat} {m : Memory} (h : Memory.wfFrom lo m = true) (ha : a < lo) :
    Memory.read m a = Memory.unlisted := by
  induction m generalizing lo with
  | nil => rfl
  | cons kv m ih =>
    obtain ⟨h1, -, -, h4⟩ := Memory.wfFrom_cons.1 h
    rw [Memory.read_cons, if_neg (by omega)]
    exact ih h4 (by omega)

theorem Memory.read_put {a : Nat} {b : Byte} {m : Memory} (x : Nat)
    (h : Memory.read m a = Memory.unlisted) :
    Memory.read (Memory.put a b m) x = if x = a then b else Memory.read m x := by
  unfold Memory.put
  split
  · next hb => split <;> simp_all
  · rw [Memory.read_cons]; simp [eq_comm]

theorem Memory.wfFrom_put {lo a : Nat} {b : Byte} {m : Memory} (h : Memory.wfFrom (a + 1) m = true)
    (hl : lo ≤ a) (ha : a < 2 ^ 32) : Memory.wfFrom lo (Memory.put a b m) = true := by
  unfold Memory.put
  split
  · exact Memory.wfFrom_mono h (by omega)
  · next hb => exact Memory.wfFrom_cons.2 ⟨hl, ha, hb, h⟩

/-- Every read after a write, of a canonical memory. -/
theorem Memory.read_write_from {lo : Nat} {m : Memory} (h : Memory.wfFrom lo m = true) (a : Nat) (b : Byte) (x : Nat) :
    Memory.read (Memory.write m a b) x = if x = a then b else Memory.read m x := by
  induction m generalizing lo with
  | nil => exact Memory.read_put x rfl
  | cons kv m ih =>
    obtain ⟨k, v⟩ := kv
    obtain ⟨-, -, -, h4⟩ := Memory.wfFrom_cons.1 h
    unfold Memory.write
    split
    · rw [Memory.read_cons, ih h4, Memory.read_cons]
      split <;> split <;> first | rfl | omega
    · split
      · next hk =>
        subst hk
        rw [Memory.read_put x (Memory.read_of_lt h4 (by omega)), Memory.read_cons]
        split <;> [rfl; rw [if_neg (by omega)]]
      · rw [Memory.read_put x]
        rw [Memory.read_cons, if_neg (by omega)]
        exact Memory.read_of_lt h4 (by omega)

theorem Memory.wfFrom_write {lo : Nat} {m : Memory} (h : Memory.wfFrom lo m = true) {a : Nat} (b : Byte)
    (hl : lo ≤ a) (ha : a < 2 ^ 32) : Memory.wfFrom lo (Memory.write m a b) = true := by
  induction m generalizing lo with
  | nil => exact Memory.wfFrom_put rfl hl ha
  | cons kv m ih =>
    obtain ⟨k, v⟩ := kv
    obtain ⟨h1, h2, h3, h4⟩ := Memory.wfFrom_cons.1 h
    unfold Memory.write
    split
    · exact Memory.wfFrom_cons.2 ⟨h1, h2, h3, ih h4 (by omega)⟩
    · split
      · next hk => subst hk; exact Memory.wfFrom_put h4 hl ha
      · exact Memory.wfFrom_put (Memory.wfFrom_cons.2 ⟨by omega, h2, h3, h4⟩) hl ha

/-- Read after write: the byte written at its address, the old byte everywhere else. -/
theorem Memory.read_write {m : Memory} (h : Memory.wf m = true) (a : Nat) (b : Byte) (x : Nat) :
    Memory.read (Memory.write m a b) x = if x = a then b else Memory.read m x :=
  Memory.read_write_from h a b x

/-- A write inside the address space keeps the canonical form. -/
theorem Memory.wf_write {m : Memory} (h : Memory.wf m = true) {a : Nat} (b : Byte) (ha : a < 2 ^ 32) :
    Memory.wf (Memory.write m a b) = true :=
  Memory.wfFrom_write h b (Nat.zero_le a) ha

/-- Buffer writes keep the canonical form. -/
theorem State.storeByte_wf {s : State} (h : Memory.wf s.mem = true) (a : Word) (b : Byte) :
    Memory.wf (s.storeByte a b).mem = true := by
  rw [State.storeByte_mem]
  exact Memory.wf_write h b a.isLt

theorem Memory.wf_reset : Memory.wf State.reset.mem = true := rfl

/-- Canonical memories that read alike are equal lists. -/
theorem Memory.ext_read {lo : Nat} {m m' : Memory} (h : Memory.wfFrom lo m = true) (h' : Memory.wfFrom lo m' = true)
    (hr : ∀ a, Memory.read m a = Memory.read m' a) : m = m' := by
  induction m generalizing lo m' with
  | nil =>
    cases m' with
    | nil => rfl
    | cons kv m' =>
      obtain ⟨-, -, h3, -⟩ := Memory.wfFrom_cons.1 h'
      have := hr kv.1
      rw [Memory.read_nil, Memory.read_cons, if_pos rfl] at this
      exact absurd this.symm h3
  | cons kv m ih =>
    obtain ⟨-, -, h3, h4⟩ := Memory.wfFrom_cons.1 h
    cases m' with
    | nil =>
      have := hr kv.1
      rw [Memory.read_nil, Memory.read_cons, if_pos rfl] at this
      exact absurd this h3
    | cons kv' m' =>
      obtain ⟨-, -, h3', h4'⟩ := Memory.wfFrom_cons.1 h'
      have hk : kv.1 = kv'.1 := by
        rcases Nat.lt_trichotomy kv.1 kv'.1 with hlt | heq | hgt
        · have := hr kv.1
          rw [Memory.read_cons, if_pos rfl, Memory.read_cons, if_neg (by omega),
            Memory.read_of_lt h4' (by omega)] at this
          exact absurd this h3
        · exact heq
        · have := hr kv'.1
          rw [Memory.read_cons, if_neg (by omega), Memory.read_cons, if_pos rfl,
            Memory.read_of_lt h4 (by omega)] at this
          exact absurd this.symm h3'
      have hv : kv.2 = kv'.2 := by
        have := hr kv.1
        rwa [Memory.read_cons, if_pos rfl, Memory.read_cons, if_pos hk.symm] at this
      have hm : m = m' := by
        refine ih h4 (hk ▸ h4') fun a => ?_
        by_cases ha : kv.1 = a
        · rw [Memory.read_of_lt h4 (by omega), Memory.read_of_lt h4' (by omega)]
        · have := hr a
          rwa [Memory.read_cons, if_neg ha, Memory.read_cons, if_neg (by omega)] at this
      rw [hm, Prod.ext hk hv]

end Sys2Proof.Machine
end

