-- ==== Sys2Proof/Laws/Ops.lean ====
section
/-! SUPPORT. What each shared operation can do, once: the read port, a racing write, the commands at the CMD write and the
engine's steps. Later proofs cite these instead of unfolding the operation. -/

namespace Sys2Proof.Machine

/-- Everything the read port can do (20_memory.md rules R55, R56, R63): the request is logged; a BusError region answers BusError;
a device or a raced byte answers the next free value; any other byte answers what the memory holds. -/
theorem memRead_cases (s : State) (a : Nat) :
    (regionKindAt s.cfg a = .busError ∧ s.memRead a = (.busError, s.request a)) ∨
    ((regionKindAt s.cfg a = .device ∨ regionKindAt s.cfg a = .memory ∧ a ∈ s.trace.raced) ∧
      s.memRead a = (.byte (Config.freeByte s.draws), { s.request a with draws := s.draws + 1 })) ∨
    (regionKindAt s.cfg a = .memory ∧ a ∉ s.trace.raced ∧
      s.memRead a = (.byte (Memory.read s.mem a), s.request a)) := by
  unfold State.memRead
  cases h : regionKindAt s.cfg a with
  | busError => exact .inl ⟨rfl, rfl⟩
  | device => exact .inr (.inl ⟨.inl rfl, rfl⟩)
  | memory =>
    by_cases hr : a ∈ s.trace.raced
    · exact .inr (.inl ⟨.inr ⟨rfl, hr⟩, by simp [hr, State.drawByte]⟩)
    · exact .inr (.inr ⟨rfl, hr, by simp [hr]⟩)

/-- Everything a write at `a` can do to the running COMPUTE (20_memory.md rule R63). -/
theorem race_cases (s : State) (a : Nat) :
    s.race a = s ∨
    (s.engine.seq = .computing ∧ s.race a = s.markRaced a) ∨
    (s.engine.seq = .computing ∧ ∃ j, s.race a = s.redrawFolded j) := by
  unfold State.race
  split
  · next h =>
    have hc : s.engine.seq = .computing := by
      simp only [Engine.inRange, Bool.and_eq_true, decide_eq_true_eq] at h; exact h.1.1
    split
    · exact .inr (.inr ⟨hc, _, rfl⟩)
    · exact .inr (.inl ⟨hc, rfl⟩)
  · exact .inl rfl

/-- The bits of a flag at position `n`. -/
theorem flagBit_getLsbD (b : Bool) (n k : Nat) :
    (flagBit b n).getLsbD k = (b && decide (k = n) && decide (k < 32)) := by
  cases b with
  | false => simp [flagBit]
  | true =>
    rw [flagBit, if_pos rfl, BitVec.getLsbD_shiftLeft, BitVec.getLsbD_one]
    by_cases hk : k < 32 <;> by_cases hl : k < n <;> simp [hk, hl] <;> omega

theorem busy_eq_false {s : State} : s.busy = false ↔ s.engine.seq = .idle := by
  simp [State.busy]

theorem busy_eq_true {s : State} : s.busy = true ↔ s.engine.seq ≠ .idle := by
  simp [State.busy]

/-- Everything BUILD can do at the CMD write (60_exceptions.md rule R166). -/
theorem execBuild_cases (s : State) :
    (s.engine.seq ≠ .idle ∧ execBuild s = .next (s.raiseError .busy)) ∨
    (s.engine.seq = .idle ∧ s.configError = true ∧ execBuild s = .next (s.raiseError .config)) ∨
    (s.engine.seq = .idle ∧ s.configError = false ∧ execBuild s = .next s.acceptBuild) := by
  unfold execBuild
  cases hb : s.busy with
  | true => exact .inl ⟨busy_eq_true.1 hb, rfl⟩
  | false =>
    cases hc : s.configError with
    | true => exact .inr (.inl ⟨busy_eq_false.1 hb, rfl, rfl⟩)
    | false => exact .inr (.inr ⟨busy_eq_false.1 hb, rfl, rfl⟩)

/-- Everything COMPUTE can do at the CMD write (60_exceptions.md rule R166). -/
theorem execCompute_cases (s : State) :
    (s.engine.seq ≠ .idle ∧ execCompute s = .next (s.raiseError .busy)) ∨
    (s.engine.seq = .idle ∧ s.status.ready = false ∧ execCompute s = .next (s.raiseError .notReady)) ∨
    (s.engine.seq = .idle ∧ s.status.ready = true ∧ s.args.outOfBounds = true ∧
      execCompute s = .next (s.raiseError .bounds)) ∨
    (s.engine.seq = .idle ∧ s.status.ready = true ∧ s.args.outOfBounds = false ∧
      execCompute s = .next s.acceptCompute) := by
  unfold execCompute
  cases hb : s.busy with
  | true => exact .inl ⟨busy_eq_true.1 hb, rfl⟩
  | false =>
    cases hr : s.status.ready with
    | false => exact .inr (.inl ⟨busy_eq_false.1 hb, rfl, rfl⟩)
    | true =>
      cases ho : s.args.outOfBounds with
      | true => exact .inr (.inr (.inl ⟨busy_eq_false.1 hb, rfl, rfl, rfl⟩))
      | false => exact .inr (.inr (.inr ⟨busy_eq_false.1 hb, rfl, rfl, rfl⟩))

/-- Everything a CMD write can do (42_control_and_access.md rule R144): nothing, one recorded error, an accepted BUILD or an
accepted COMPUTE. -/
theorem dispatch_cases (s : State) (v : Word) :
    (decode v = .command .nop ∧ dispatch s v = .next s) ∨
    (∃ code, code ≠ .none ∧ dispatch s v = .next (s.raiseError code)) ∨
    (decode v = .command .build ∧ s.engine.seq = .idle ∧ s.configError = false ∧ dispatch s v = .next s.acceptBuild) ∨
    (decode v = .command .compute ∧ s.engine.seq = .idle ∧ s.status.ready = true ∧ s.args.outOfBounds = false ∧
      dispatch s v = .next s.acceptCompute) := by
  unfold dispatch
  cases hd : decode v with
  | illegal why => exact .inr (.inl ⟨.badCmd, nofun, rfl⟩)
  | command i =>
    cases i with
    | nop => exact .inl ⟨rfl, rfl⟩
    | build =>
      obtain ⟨-, h⟩ | ⟨-, -, h⟩ | ⟨h1, h2, h⟩ := execBuild_cases s
      · exact .inr (.inl ⟨.busy, nofun, h⟩)
      · exact .inr (.inl ⟨.config, nofun, h⟩)
      · exact .inr (.inr (.inl ⟨rfl, h1, h2, h⟩))
    | compute =>
      obtain ⟨-, h⟩ | ⟨-, -, h⟩ | ⟨-, -, -, h⟩ | ⟨h1, h2, h3, h⟩ := execCompute_cases s
      · exact .inr (.inl ⟨.busy, nofun, h⟩)
      · exact .inr (.inl ⟨.notReady, nofun, h⟩)
      · exact .inr (.inl ⟨.bounds, nofun, h⟩)
      · exact .inr (.inr (.inr ⟨rfl, h1, h2, h3, h⟩))

/-- Everything a BUILD engine step can do (40_table_generator.md rule R108). -/
theorem buildStep_cases (s : State) :
    (256 ≤ s.engine.idx.toNat ∧ buildStep s = .fault .tableIndexOutOfRange) ∨
    (s.engine.idx.toNat < 255 ∧ buildStep s = .next (s.writeEntry (s.engine.idx.setWidth 8))) ∨
    (s.engine.idx.toNat = 255 ∧ buildStep s = .next (s.writeEntry (s.engine.idx.setWidth 8)).finishBuild) := by
  unfold buildStep
  by_cases h : s.engine.idx.toNat < 256
  · rw [if_pos h]
    by_cases h' : s.engine.idx.toNat = 255
    · refine .inr (.inr ⟨h', if_pos ?_⟩)
      rw [State.writeEntry_engine]
      apply BitVec.eq_of_toNat_eq
      simp [h']
    · refine .inr (.inl ⟨by omega, if_neg fun he => h' ?_⟩)
      rw [State.writeEntry_engine] at he
      have := congrArg BitVec.toNat he
      have h1 : BitVec.toNat (1 : BitVec 9) = 1 := rfl
      have h256 : BitVec.toNat (256 : BitVec 9) = 256 := rfl
      rw [BitVec.toNat_add, h1, h256] at this
      omega
  · exact .inl ⟨by omega, if_neg h⟩

/-- Everything a COMPUTE engine step can do (41_fold_engine.md rule R127). -/
theorem computeStep_cases (s : State) :
    (s.engine.i.toNat < s.engine.cLen.toNat ∧ 2 ^ 32 ≤ s.engine.readAddress ∧
      computeStep s = .fault .bufferAddressOutOfRange) ∨
    (s.engine.i.toNat < s.engine.cLen.toNat ∧ s.engine.readAddress < 2 ^ 32 ∧
      ∃ d s', s.memRead s.engine.readAddress = (.byte d, s') ∧ computeStep s = .next (s'.foldByte d)) ∨
    (s.engine.i.toNat < s.engine.cLen.toNat ∧ s.engine.readAddress < 2 ^ 32 ∧
      ∃ s', s.memRead s.engine.readAddress = (.busError, s') ∧ computeStep s = .next s'.abortCompute) ∨
    (s.engine.cLen.toNat ≤ s.engine.i.toNat ∧ computeStep s = .next s.finishCompute) := by
  unfold computeStep
  by_cases h : s.engine.i.toNat < s.engine.cLen.toNat
  · rw [if_pos h]
    by_cases ha : s.engine.readAddress < 2 ^ 32
    · rw [if_pos ha]
      obtain ⟨-, hm⟩ | ⟨-, hm⟩ | ⟨-, -, hm⟩ := memRead_cases s s.engine.readAddress
      · exact .inr (.inr (.inl ⟨h, ha, _, hm, by rw [hm]⟩))
      · exact .inr (.inl ⟨h, ha, _, _, hm, by rw [hm]⟩)
      · exact .inr (.inl ⟨h, ha, _, _, hm, by rw [hm]⟩)
    · exact .inl ⟨h, by omega, if_neg ha⟩
  · exact .inr (.inr (.inr ⟨by omega, if_neg h⟩))

/-- What the read port leaves unchanged. -/
theorem memRead_frame {s s' : State} {a : Nat} {p : PortAnswer} (h : s.memRead a = (p, s')) :
    s'.cfg = s.cfg ∧ s'.staging = s.staging ∧ s'.args = s.args ∧ s'.tblIndex = s.tblIndex ∧ s'.latched = s.latched ∧
      s'.status = s.status ∧ s'.result = s.result ∧ s'.engine = s.engine ∧ s'.table = s.table ∧ s'.mem = s.mem ∧
      s'.trace = s.trace ∧ s'.portLog = s.portLog ++ [a] ∧ s'.host = s.host := by
  obtain ⟨-, hm⟩ | ⟨-, hm⟩ | ⟨-, -, hm⟩ := memRead_cases s a <;>
  · rw [h] at hm
    obtain ⟨-, rfl⟩ := Prod.mk.inj hm
    simp

end Sys2Proof.Machine
end

