-- ==== Sys2Proof/Laws/Step.lean ====
section
/-! SUPPORT. Everything one step can do, said once: `step_moves` is the inversion lemma from which invariants and frames are
derived without unfolding the step. -/

namespace Sys2Proof.Machine

/-- The access writes a register other than CMD and STATUS. -/
def WritesPlain (cfg : Config) (a : BusAccess) : Prop :=
  ∃ v, a.kind = .write v ∧ regAt (windowOffset cfg a.addr) ≠ .cmd ∧ regAt (windowOffset cfg a.addr) ≠ .status

/-- The states one step can lead to, by what happens in it. In the host's cases the operation used up is the first pending one. -/
inductive State.Moves (s t : State) : Prop
  | engineIdle (hn : s.nextAgent = .engine) (hq : s.engine.seq = .idle) (ht : t = s.takeTurn)
  | entry (hq : s.Engages .building) (hi : s.engine.idx.toNat < 255)
      (ht : t = s.takeTurn.writeEntry (s.engine.idx.setWidth 8))
  | built (hq : s.Engages .building) (hi : s.engine.idx.toNat = 255)
      (ht : t = (s.takeTurn.writeEntry (s.engine.idx.setWidth 8)).finishBuild)
  | folded (hq : s.Engages .computing) (hi : s.engine.i.toNat < s.engine.cLen.toNat) (ha : s.engine.readAddress < 2 ^ 32)
      (d : Byte) (u : State) (hm : s.takeTurn.memRead s.engine.readAddress = (.byte d, u)) (ht : t = u.foldByte d)
  | aborted (hq : s.Engages .computing) (hi : s.engine.i.toNat < s.engine.cLen.toNat) (ha : s.engine.readAddress < 2 ^ 32)
      (u : State) (hm : s.takeTurn.memRead s.engine.readAddress = (.busError, u)) (ht : t = u.abortCompute)
  | completed (hq : s.Engages .computing) (hi : s.engine.cLen.toNat ≤ s.engine.i.toNat) (ht : t = s.takeTurn.finishCompute)
  | hostIdle (hn : s.nextAgent = .host) (ho : s.host.ops = []) (ht : t = s.takeTurn)
  | read (hn : s.nextAgent = .host) (a : BusAccess) (rest : List HostOp) (ho : s.host.ops = .access a :: rest)
      (hk : a.kind = .read)
      (ht : t = s.takeTurn.dropOp.logRead (windowOffset s.cfg a.addr) (s.readReg (regAt (windowOffset s.cfg a.addr))))
  | polled (hn : s.nextAgent = .host) (addr : Nat) (mask value : Word) (rest : List HostOp)
      (ho : s.host.ops = .poll addr mask value :: rest) (off : BitVec 8) (w : Word)
      (ht : t = s.takeTurn.dropOp.logRead off w ∨ t = s.takeTurn.logRead off w)
  | command (v : Word) (hw : s.WritesCmd v) (ht : dispatch s.takeTurn.dropOp v = .next t)
  | status (v : Word) (hw : s.WritesReg .status v) (ht : t = s.takeTurn.dropOp.writeStatus v)
  | staging (p : Staging) (hn : s.nextAgent = .host) (a : BusAccess) (rest : List HostOp)
      (ho : s.host.ops = .access a :: rest) (hr : WritesPlain s.cfg a) (ht : t = { s.takeTurn.dropOp with staging := p })
  | args (p : Args) (hn : s.nextAgent = .host) (a : BusAccess) (rest : List HostOp)
      (ho : s.host.ops = .access a :: rest) (hr : WritesPlain s.cfg a) (ht : t = { s.takeTurn.dropOp with args := p })
  | tblIndex (n : BitVec 8) (hn : s.nextAgent = .host) (a : BusAccess) (rest : List HostOp)
      (ho : s.host.ops = .access a :: rest) (hr : WritesPlain s.cfg a) (ht : t = { s.takeTurn.dropOp with tblIndex := n })
  | ignored (hn : s.nextAgent = .host) (a : BusAccess) (rest : List HostOp) (ho : s.host.ops = .access a :: rest)
      (hr : WritesPlain s.cfg a) (ht : t = s.takeTurn.dropOp)
  | stored (a : Word) (b : Byte) (hw : s.Stores a b) (ht : t = s.takeTurn.dropOp.storeByte a b)
  | reset (hw : s.Resets) (ht : t = s.takeTurn.dropOp.blockReset)

/-- A register's value depends on nothing of the host's side. -/
theorem readReg_host (s : State) (h : HostSide) (reg : Reg) : State.readReg { s with host := h } reg = s.readReg reg := by
  cases reg <;> rfl

theorem readReg_turn (s : State) (reg : Reg) : s.takeTurn.dropOp.readReg reg = s.readReg reg := by
  cases reg <;> rfl

/-- An access the port answers lies in the window at a multiple of 4. -/
theorem accessRefusal_none {cfg : Config} {addr : Nat} {size : AccessSize} (h : accessRefusal cfg addr size = none) :
    cfg.blockBase ≤ addr ∧ addr < cfg.blockBase + 256 ∧ size = .word ∧ (addr - cfg.blockBase) % 4 = 0 := by
  unfold accessRefusal at h
  split at h <;> [skip; split at h <;> [skip; split at h]] <;> simp_all

/-- A defined access selects the register whose offset its address is, but for the reserved space. -/
theorem regAt_windowOffset {cfg : Config} {addr : Nat} (h1 : cfg.blockBase ≤ addr) (h2 : addr < cfg.blockBase + 256)
    (hr : regAt (windowOffset cfg addr) ≠ .reserved) :
    addr = cfg.blockBase + (offsetOf (regAt (windowOffset cfg addr))).toNat := by
  have key : ∀ o : BitVec 8, regAt o ≠ .reserved → offsetOf (regAt o) = o := by decide
  rw [key _ hr, windowOffset, BitVec.toNat_ofNat, Nat.mod_eq_of_lt] <;> omega

/-- The word-wide write that a defined access is. -/
theorem access_write_eq {cfg : Config} {a : BusAccess} {v : Word} {reg : Reg} (hc : accessRefusal cfg a.addr a.size = none)
    (hk : a.kind = .write v) (hreg : regAt (windowOffset cfg a.addr) = reg) (hr : reg ≠ .reserved) :
    a = { addr := cfg.blockBase + (offsetOf reg).toNat, size := .word, kind := .write v } := by
  obtain ⟨h1, h2, h3, -⟩ := accessRefusal_none hc
  have h4 := regAt_windowOffset h1 h2 (hreg ▸ hr)
  rw [hreg] at h4
  cases a
  simp_all

/-- Everything an engine turn can do. -/
theorem engine_moves {s t : State} (hn : s.nextAgent = .engine) (h : engineStep s.takeTurn = .next t) : s.Moves t := by
  unfold engineStep at h
  cases hq : s.engine.seq with
  | idle =>
    simp only [State.takeTurn_engine, hq] at h
    cases h
    exact .engineIdle hn hq rfl
  | building =>
    simp only [State.takeTurn_engine, hq] at h
    obtain ⟨-, hb⟩ | ⟨hi, hb⟩ | ⟨hi, hb⟩ := buildStep_cases s.takeTurn <;> rw [hb] at h <;> cases h
    · exact .entry ⟨hn, hq⟩ hi rfl
    · exact .built ⟨hn, hq⟩ hi rfl
  | computing =>
    simp only [State.takeTurn_engine, hq] at h
    obtain ⟨-, -, hb⟩ | ⟨hi, ha, d, u, hm, hb⟩ | ⟨hi, ha, u, hm, hb⟩ | ⟨hi, hb⟩ := computeStep_cases s.takeTurn <;>
      rw [hb] at h <;> cases h
    · exact .folded ⟨hn, hq⟩ hi ha d u hm rfl
    · exact .aborted ⟨hn, hq⟩ hi ha u hm rfl
    · exact .completed ⟨hn, hq⟩ hi rfl

/-- Everything a defined register write can do. -/
theorem write_moves {s t : State} {a : BusAccess} {rest : List HostOp} {v : Word} (hn : s.nextAgent = .host)
    (ho : s.host.ops = .access a :: rest) (hc : accessRefusal s.cfg a.addr a.size = none) (hk : a.kind = .write v)
    (h : s.takeTurn.dropOp.writeReg (regAt (windowOffset s.cfg a.addr)) v = .next t) : s.Moves t := by
  cases hreg : regAt (windowOffset s.cfg a.addr) <;> rw [hreg] at h <;> simp only [State.writeReg] at h
  case cmd =>
    have ha := access_write_eq hc hk hreg nofun
    exact .command v ⟨hn, rest, by rw [ho, ha]; rfl⟩ h
  all_goals cases h
  case status =>
    have ha := access_write_eq hc hk hreg nofun
    exact .status v ⟨hn, rest, by rw [ho, ha]⟩ rfl
  all_goals have hp : WritesPlain s.cfg a := ⟨v, hk, by rw [hreg]; nofun, by rw [hreg]; nofun⟩
  case width => exact .staging _ hn a rest ho hp rfl
  case mode => exact .staging _ hn a rest ho hp rfl
  case poly => exact .staging _ hn a rest ho hp rfl
  case init => exact .staging _ hn a rest ho hp rfl
  case xorout => exact .staging _ hn a rest ho hp rfl
  case bufBase => exact .args _ hn a rest ho hp rfl
  case bufSize => exact .args _ hn a rest ho hp rfl
  case offset => exact .args _ hn a rest ho hp rfl
  case length => exact .args _ hn a rest ho hp rfl
  case tblIndex => exact .tblIndex _ hn a rest ho hp rfl
  all_goals exact .ignored hn a rest ho hp rfl

/-- Everything a host turn can do. -/
theorem host_moves {s t : State} (hn : s.nextAgent = .host) (h : hostStep s.takeTurn = .next t) : s.Moves t := by
  unfold hostStep at h
  cases ho : s.host.ops with
  | nil =>
    simp only [State.takeTurn_host, ho] at h
    cases h
    exact .hostIdle hn ho rfl
  | cons op rest =>
    simp only [State.takeTurn_host, ho] at h
    cases op with
    | access a =>
      simp only [State.busAccess] at h
      cases hc : accessRefusal s.cfg a.addr a.size with
      | some r => simp [hc] at h
      | none =>
        simp only [State.dropOp_cfg, State.takeTurn_cfg, hc, State.portAccess] at h
        cases hk : a.kind with
        | read =>
          simp only [hk, readReg_turn] at h
          cases h
          exact .read hn a rest ho hk rfl
        | write v =>
          simp only [hk] at h
          exact write_moves hn ho hc hk h
    | poll addr mask value =>
      simp only [State.pollOnce] at h
      split at h
      · cases h
      · split at h <;> cases h
        · exact .polled hn addr mask value rest ho _ _ (.inl rfl)
        · exact .polled hn addr mask value rest ho _ _ (.inr rfl)
    | mem a b => cases h; exact .stored a b ⟨hn, rest, ho⟩ rfl
    | reset => cases h; exact .reset ⟨hn, rest, ho⟩ rfl

/-- Everything a step can do. -/
theorem step_moves {s t : State} (h : step s = .next t) : s.Moves t := by
  unfold step at h
  cases hn : s.nextAgent with
  | host => rw [hn] at h; exact host_moves hn h
  | engine => rw [hn] at h; exact engine_moves hn h

/-- No step changes the platform's parameters (00_scope.md rule R9). -/
theorem step_cfg {s t : State} (h : step s = .next t) : t.cfg = s.cfg := by
  cases step_moves h
  case folded hm ht => rw [ht, State.foldByte_cfg, (memRead_frame hm).1]; rfl
  case aborted hm ht => rw [ht, State.abortCompute_cfg, (memRead_frame hm).1]; rfl
  case polled ht => obtain rfl | rfl := ht <;> rfl
  case command v _ ht =>
    obtain ⟨-, h⟩ | ⟨_, -, h⟩ | ⟨-, -, -, h⟩ | ⟨-, -, -, -, h⟩ := dispatch_cases s.takeTurn.dropOp v <;>
      rw [h] at ht <;> cases ht <;> simp
  all_goals next ht => subst ht; simp

end Sys2Proof.Machine
end

