-- ==== Sys2Proof/Laws/Invariant.lean ====
section
/-! SUPPORT. Each operation keeps the invariant: one lemma an operation, over the parts of the state it touches. -/

namespace Sys2Proof.Machine

/-- The invariant reads memory, status, latched configuration, table, engine and trace only. -/
theorem Inv.of_frame {s t : State} (h : s.Inv) (hm : t.mem = s.mem) (hs : t.status = s.status) (hl : t.latched = s.latched)
    (ht : t.table = s.table) (he : t.engine = s.engine) (htr : t.trace = s.trace) : t.Inv := by
  have hen : ∀ b, t.entry b = s.entry b := fun b => by simp only [State.entry, ht]
  refine ⟨hm ▸ h.memory, ⟨?_, ?_, ?_, ?_, ?_⟩, fun hq => ?_, fun hq => ?_, ?_, ?_⟩
  · rw [hs, hl]; exact h.r40.sound
  · simp only [hs, hl, hen]; exact h.r40.built
  · simp only [hs, hl, hen]; exact h.r40.masked
  · rw [hs, he]; exact h.r40.notBuilding
  · rw [hs, he]; exact h.r40.buildingNotReady
  · have hb := h.building (he ▸ hq)
    exact ⟨hl ▸ hb.sound, he ▸ hb.index, by simp only [he, hl, hen]; exact hb.entries⟩
  · have hc := h.computing (he ▸ hq)
    exact ⟨hs ▸ hc.ready, he ▸ hc.count, he ▸ hc.range, by rw [htr, he]; exact hc.length,
      by rw [he, hl, ht, htr]; exact hc.crc⟩
  · rw [hs]; exact h.noError
  · rw [hs]; exact h.error

theorem Inv.takeTurn {s : State} (h : s.Inv) : s.takeTurn.Inv := Inv.of_frame h rfl rfl rfl rfl rfl rfl

theorem Inv.dropOp {s : State} (h : s.Inv) : s.dropOp.Inv := Inv.of_frame h rfl rfl rfl rfl rfl rfl

theorem Inv.logRead {s : State} (h : s.Inv) (off : BitVec 8) (v : Word) : (s.logRead off v).Inv :=
  Inv.of_frame h rfl rfl rfl rfl rfl rfl

/-- Only the error fields differ: the invariant needs the new ones to agree with ERR. -/
theorem Inv.of_errors {s t : State} (h : s.Inv) (ht : t = { s with status := t.status })
    (hr : t.status.ready = s.status.ready)
    (hn : t.status.err = false → t.status.errCode = .none ∧ t.status.errLost = false)
    (he : t.status.err = true → t.status.errCode ≠ .none) : t.Inv := by
  rw [ht]
  refine ⟨h.memory, ⟨?_, ?_, ?_, ?_, ?_⟩, fun hq => ?_, fun hq => ?_, hn, he⟩
  · simp only [hr]; exact h.r40.sound
  · simp only [hr]; exact h.r40.built
  · simp only [hr]; exact h.r40.masked
  · simp only [hr]; exact h.r40.notBuilding
  · simp only [hr]; exact h.r40.buildingNotReady
  · have hb := h.building hq
    exact ⟨hb.sound, hb.index, hb.entries⟩
  · have hc := h.computing hq
    exact ⟨hr.trans hc.ready, hc.count, hc.range, hc.length, hc.crc⟩

theorem Inv.raiseError {s : State} (h : s.Inv) {code : ErrCode} (hc : code ≠ .none) : (s.raiseError code).Inv := by
  refine Inv.of_errors h ?_ (by simp) ?_ ?_
  · unfold State.raiseError; split <;> rfl
  · unfold State.raiseError; split <;> simp_all
  · have := h.error
    unfold State.raiseError; split <;> simp_all

theorem Inv.writeStatus {s : State} (h : s.Inv) (v : Word) : (s.writeStatus v).Inv := by
  refine Inv.of_errors h ?_ (by simp) ?_ ?_
  · unfold State.writeStatus; split <;> split <;> rfl
  · have := h.noError
    unfold State.writeStatus; split <;> split <;> simp_all
  · have := h.error
    unfold State.writeStatus; split <;> split <;> simp_all

/-- A BUILD that passes its checks latches a sound configuration (40_table_generator.md rule R105). -/
theorem latch_sound {s : State} (h : s.configError = false) : s.staging.latch.Sound := by
  simp only [State.configError, Staging.badWidth, Bool.or_eq_false_iff, decide_eq_false_iff_not] at h
  obtain ⟨⟨h1, h2⟩, -⟩ := h
  exact ⟨by rw [Staging.latch_w]; omega, by rw [Staging.latch_w]; omega, rfl⟩

theorem Inv.acceptBuild {s : State} (h : s.Inv) (hc : s.configError = false) : s.acceptBuild.Inv := by
  refine ⟨h.memory, ⟨by simp, by simp, by simp, by simp, by simp⟩, fun _ => ?_, by simp, h.noError, h.error⟩
  exact ⟨latch_sound hc, by simp, by simp⟩

theorem Inv.acceptCompute {s : State} (h : s.Inv) (hr : s.status.ready = true) (ho : s.args.outOfBounds = false) :
    s.acceptCompute.Inv := by
  refine ⟨h.memory, ⟨h.r40.sound, h.r40.built, h.r40.masked, by simp, by simp⟩, by simp, fun _ => ?_, h.noError, h.error⟩
  refine ⟨hr, by simp, ?_, by simp, by simp⟩
  simp only [Args.outOfBounds, Bool.or_eq_false_iff, decide_eq_false_iff_not] at ho
  simp only [State.acceptCompute_engine]
  omega

/-- The entries after one write. -/
theorem entry_writeEntry (s : State) (b b' : Byte) :
    (s.writeEntry b).entry b' = if b' = b then tableEntry s.latched b else s.entry b' := by
  simp only [State.entry, State.writeEntry_table, Vector.getElem_set]
  by_cases hb : b' = b
  · subst hb; simp
  · rw [if_neg fun h => hb (BitVec.eq_of_toNat_eq h.symm), if_neg hb]

/-- The entries of the table a BUILD leaves. -/
theorem entry_builtTable {s : State} {l : Latched} (h : s.table = builtTable l) (b : Byte) : s.entry b = tableEntry l b := by
  have := tableAt_builtTable l (b.setWidth 32)
  simpa [tableAt, State.entry, h] using this

/-- IDX as an entry number, while it is one. -/
theorem idx_setWidth {x : BitVec 9} (h : x.toNat < 256) : (x.setWidth 8).toNat = x.toNat := by
  rw [BitVec.toNat_setWidth, Nat.mod_eq_of_lt h]

/-- After the entry at IDX is written, the entries up to IDX hold TABLE_ENTRY. -/
theorem entries_after_write {s : State} (h : s.BuildingInv) (b : Byte) (hb : b.toNat ≤ s.engine.idx.toNat) :
    (s.writeEntry (s.engine.idx.setWidth 8)).entry b = tableEntry s.latched b := by
  rw [entry_writeEntry]
  split
  · next heq => rw [heq]
  · next hne =>
    refine h.entries b (lt_of_le_of_ne hb fun he => hne (BitVec.eq_of_toNat_eq ?_))
    rw [idx_setWidth h.index, he]

theorem Inv.writeEntry {s : State} (h : s.Inv) (hq : s.engine.seq = .building) (hi : s.engine.idx.toNat < 255) :
    (s.writeEntry (s.engine.idx.setWidth 8)).Inv := by
  have hr := h.r40.buildingNotReady hq
  have hb := h.building hq
  have hidx : (s.engine.idx + 1).toNat = s.engine.idx.toNat + 1 := by
    rw [BitVec.toNat_add]
    show (s.engine.idx.toNat + 1) % 2 ^ 9 = _
    omega
  refine ⟨h.memory, ⟨by simp [hr], by simp [hr], by simp [hr], by simp [hr], by simp [hr]⟩, fun _ => ?_, by simp [hq],
    h.noError, h.error⟩
  refine ⟨hb.sound, by rw [State.writeEntry_engine]; simp only [hidx]; omega, fun b hlt => ?_⟩
  rw [State.writeEntry_engine] at hlt
  simp only [hidx] at hlt
  exact entries_after_write hb b (by omega)

theorem Inv.finishBuild {s : State} (h : s.Inv) (hq : s.engine.seq = .building) (hi : s.engine.idx.toNat = 255) :
    (s.writeEntry (s.engine.idx.setWidth 8)).finishBuild.Inv := by
  have hb := h.building hq
  have key : ∀ b, (s.writeEntry (s.engine.idx.setWidth 8)).finishBuild.entry b = tableEntry s.latched b :=
    fun b => entries_after_write hb b (by have := b.isLt; omega)
  refine ⟨h.memory, ⟨fun _ => hb.sound, fun _ => key, fun _ b => ?_, by simp, by simp⟩, by simp, by simp, h.noError,
    h.error⟩
  rw [key b]
  exact tableEntry_and_not_mask s.latched b

theorem Inv.memRead {s u : State} (h : s.Inv) {a : Nat} {p : PortAnswer} (hm : s.memRead a = (p, u)) : u.Inv := by
  obtain ⟨-, -, -, -, hl, hs, -, he, ht, hmem, htr, -, -⟩ := memRead_frame hm
  exact Inv.of_frame h hmem hs hl ht he htr

theorem Inv.foldByte {s : State} (h : s.Inv) (hq : s.engine.seq = .computing)
    (hi : s.engine.i.toNat < s.engine.cLen.toNat) (d : Byte) : (s.foldByte d).Inv := by
  have hc := h.computing hq
  have hidx : (s.engine.i + 1).toNat = s.engine.i.toNat + 1 := by
    have := s.engine.cLen.isLt
    rw [BitVec.toNat_add]
    show (s.engine.i.toNat + 1) % 2 ^ 32 = _
    omega
  refine ⟨h.memory, ⟨h.r40.sound, h.r40.built, h.r40.masked, h.r40.notBuilding, h.r40.buildingNotReady⟩, by simp [hq],
    fun _ => ?_, h.noError, h.error⟩
  refine ⟨hc.ready, by rw [State.foldByte_engine]; simp only [hidx]; omega, hc.range, ?_, ?_⟩
  · rw [State.foldByte_engine, State.foldByte_trace]
    simp only [List.length_append, hidx, hc.length]
    rfl
  · simp [crcRun_append_byte, ← hc.crc]

theorem Inv.abortCompute {s : State} (h : s.Inv) : s.abortCompute.Inv := by
  have h' := Inv.raiseError h (code := .bus) nofun
  exact ⟨h'.memory, ⟨h'.r40.sound, h'.r40.built, h'.r40.masked, by simp, by simp⟩, by simp, by simp, h'.noError, h'.error⟩

theorem Inv.finishCompute {s : State} (h : s.Inv) : s.finishCompute.Inv :=
  ⟨h.memory, ⟨h.r40.sound, h.r40.built, h.r40.masked, by simp, by simp⟩, by simp, by simp, h.noError, h.error⟩

theorem Inv.race {s : State} (h : s.Inv) (a : Nat) : (s.race a).Inv := by
  obtain hr | ⟨-, hr⟩ | ⟨-, j, hr⟩ := race_cases s a <;> rw [hr]
  · exact h
  · refine ⟨h.memory, ⟨h.r40.sound, h.r40.built, h.r40.masked, h.r40.notBuilding, h.r40.buildingNotReady⟩, fun hq => ?_,
      fun hq => ?_, h.noError, h.error⟩
    · exact ⟨(h.building hq).sound, (h.building hq).index, (h.building hq).entries⟩
    · have hc := h.computing hq
      exact ⟨hc.ready, hc.count, hc.range, hc.length, hc.crc⟩
  · refine ⟨h.memory, ⟨h.r40.sound, h.r40.built, h.r40.masked, h.r40.notBuilding, h.r40.buildingNotReady⟩, fun hq => ?_,
      fun hq => ?_, h.noError, h.error⟩
    · exact ⟨(h.building hq).sound, (h.building hq).index, (h.building hq).entries⟩
    · have hc := h.computing hq
      exact ⟨hc.ready, hc.count, hc.range, by simpa using hc.length, rfl⟩

theorem Inv.storeByte {s : State} (h : s.Inv) (a : Word) (b : Byte) : (s.storeByte a b).Inv := by
  have h' := Inv.race h a.toNat
  have hm := State.storeByte_wf h.memory a b
  refine ⟨hm, ⟨h'.r40.sound, h'.r40.built, h'.r40.masked, h'.r40.notBuilding, h'.r40.buildingNotReady⟩, fun hq => ?_,
    fun hq => ?_, h'.noError, h'.error⟩
  · exact ⟨(h'.building hq).sound, (h'.building hq).index, (h'.building hq).entries⟩
  · have hc := h'.computing hq
    exact ⟨hc.ready, hc.count, hc.range, hc.length, hc.crc⟩

theorem Inv.blockReset {s : State} (h : s.Inv) : s.blockReset.Inv := by
  refine ⟨h.memory, ⟨?_, ?_, ?_, ?_, ?_⟩, ?_, ?_, ?_, ?_⟩ <;> simp [State.reset]

end Sys2Proof.Machine
end

