-- ==== Sys2Proof/Laws/PerInstr.lean ====
section
/-! SUPPORT. Statements made per instruction. Family `Encoding`: a command's word is well formed, decodes to the command and has
RSVD = 0 (30_encoding.md rules R70, R71, R73, R74). -/

namespace Sys2Proof.Laws

/-- The encoding of a command is legal and means that command. -/
def Encoding.Statement (i : Instr) : Prop :=
  i.commandWord.wellFormed = true ∧ CommandWord.ofWord (encode i) = i.commandWord ∧ decode (encode i) = .command i

theorem Encoding.nop : Encoding.Statement .nop := ⟨rfl, rfl, rfl⟩

theorem Encoding.build : Encoding.Statement .build := ⟨rfl, rfl, rfl⟩

theorem Encoding.compute : Encoding.Statement .compute := ⟨rfl, rfl, rfl⟩

end Sys2Proof.Laws
end

