-- ==== Sys2Proof/Tests/Slice0.lean ====
section
/-! SUPPORT. Tests: expected values come from spec/95_test_vectors.md and the rules, and the witnesses of the obligations'
hypotheses. -/

namespace Sys2Proof.Tests

open Sys2Proof.Machine

/-! ## Well-formedness: one ill-formed term for each check -/

theorem test_wf_command_word : CommandWord.wellFormed { rsvd := 0, opcode := 2 } = true := by decide
theorem test_wf_rsvd_set_refused : CommandWord.wellFormed { rsvd := 1, opcode := 1 } = false := by decide
theorem test_wf_opcode_reserved_refused : CommandWord.wellFormed { rsvd := 0, opcode := 3 } = false := by decide
theorem test_wf_access :
    BusAccess.wellFormed { Config.default with blockBase := 0x100 } { addr := 0x1FC, size := .word, kind := .read } = true := by
  decide
theorem test_wf_access_half_refused :
    BusAccess.wellFormed Config.default { addr := 0, size := .half, kind := .read } = false := by decide
theorem test_wf_access_misaligned_refused :
    BusAccess.wellFormed Config.default { addr := 2, size := .word, kind := .read } = false := by decide
theorem test_wf_access_below_refused :
    BusAccess.wellFormed { Config.default with blockBase := 0x100 } { addr := 0xFC, size := .word, kind := .read } = false := by
  decide
theorem test_wf_access_above_refused :
    BusAccess.wellFormed Config.default { addr := 0x100, size := .word, kind := .read } = false := by decide
theorem test_wf_base_unaligned_refused :
    Config.wellFormed { Config.default with blockBase := 0x80 } = false := by decide
theorem test_wf_region_outside_refused :
    Config.wellFormed { Config.default with regions := [{ base := 0xFFFFFFFF, size := 2, kind := .busError }] } = false := by
  decide

/-! ## Decoding: words written out bit by bit from rules R70, R71, R73 -/

theorem test_decode_nop : decode 0b0000000000000000000000000000_0000#32 = .command .nop := by decide
theorem test_decode_build : decode 0b0000000000000000000000000000_0001#32 = .command .build := by decide
theorem test_decode_compute : decode 0b0000000000000000000000000000_0010#32 = .command .compute := by decide
theorem test_decode_opcode_three : decode 0b0000000000000000000000000000_0011#32 = .illegal .reservedOpcode := by decide
theorem test_decode_build_with_rsvd : decode 0b0000000000000000000000000001_0001#32 = .illegal .reservedBits := by decide
theorem test_decode_top_bit : decode 0b1000000000000000000000000000_0000#32 = .illegal .reservedBits := by decide
theorem test_table_word_nop : decodeTableWord 32 0 = some .nop := by decide
theorem test_table_word_build : decodeTableWord 32 1 = some .build := by decide
theorem test_table_word_compute : decodeTableWord 32 2 = some .compute := by decide
theorem test_encode_compute : encode .compute = 0b0000000000000000000000000000_0010#32 := by decide

/-! ## Datapath vectors (95_test_vectors.md sections 2.1 and 2.2) -/

/-- A latched configuration of the vectors' notation. -/
def conf (w : BitVec 6) (poly init : Word) (refin refout : Bool) (xorout : Word) : Staging :=
  { hashSize := w, refin := refin, refout := refout, poly := poly, init := init, xorout := xorout }

/-- Configuration H of E1. -/
def confH : Staging := conf 8 0xD5 0 true true 0

theorem test_rev8_vectors :
    rev8 0x9B = 0xD9 ∧ rev8 0x1F0 = 0x0F ∧ rev8 0xFFFFFFFF = 0xFF ∧ rev8 0x12345678 = 0x1E := by decide
theorem test_mask_vectors :
    maskOf 1 = 0x1 ∧ maskOf 12 = 0xFFF ∧ maskOf 31 = 0x7FFFFFFF ∧ maskOf 32 = 0xFFFFFFFF := by decide
theorem test_v_t1 :
    tableEntry confH.latch 0x01 = 0xF7 ∧ tableEntry confH.latch 0x80 = 0xAB ∧ tableEntry confH.latch 0xFF = 0x9F := by
  decide
theorem test_v_t1_working_register : crcSteps confH.latch 8 (tableSeed confH.latch 0x01) = 0xD3EF := by decide
theorem test_v_t2_crc12 :
    tableEntry (conf 12 0x80F 0 false false 0).latch 0x08 = 0x855 ∧
      tableEntry (conf 12 0x80F 0 false false 0).latch 0xFF = 0x606 := by decide
theorem test_v_t2_crc32 : tableEntry (conf 32 0x04C11DB7 0 false false 0).latch 0xFF = 0xB1F740B4 := by decide
theorem test_v_t3_mixed :
    tableEntry (conf 8 0x07 0 false true 0).latch 0x40 = 0xE3 ∧ tableEntry (conf 8 0x07 0 true false 0).latch 0x02 = 0xC7 := by
  decide
theorem test_v_t4 : tableEntry (conf 16 0x1021 0 true false 0).latch 0x10 = 0x0800 := by decide
theorem test_v_t6_mask_at_end :
    tableEntry (conf 4 0x3 0 false true 0).latch 0x1 = 0xC ∧ tableEntry (conf 4 0x3 0 false true 0).latch 0xF = 0x4 := by
  decide
theorem test_v_t7_narrow : tableEntry (conf 3 0x3 0 false false 0).latch 0xD = 0x1 := by decide
theorem test_v_c1_first_fold : fold confH.latch (builtTable confH.latch) 0 0x9B = 0x3B := by
  simp [fold, foldR, confH, conf, Staging.latch]; decide

/-! ## Small states for single steps -/

/-- The state of an answer that goes on. -/
def nextOf : Host.Outcome State Fault Refusal → Option State
  | .next s => some s
  | .fault _ => none
  | .refused _ => none

/-- STATUS after one step. -/
def statusAfter (s : State) : Option Word := (nextOf (step s)).map (·.readReg .status)

/-- The host's turn, with one pending operation. -/
def hostTurn (op : HostOp) (s : State) : State := { s with host := { ops := [op], schedule := [.host], rdLog := [] } }

/-- The engine's turn. -/
def engineTurn (s : State) : State := { s with host := { ops := [], schedule := [.engine], rdLog := [] } }

/-- What the next register read returns to the host. -/
def readAfter (s : State) : Option (List ReadRecord) := (nextOf (step s)).map (·.host.rdLog)

/-- The state after P1 line 13 (95_test_vectors.md), READY with configuration H. -/
def sReady : State :=
  { State.reset with
    staging := confH
    args := { bufBase := 0x1000, bufSize := 12, offset := 2, length := 7 }
    latched := confH.latch
    status := { State.reset.status with ready := true }
    table := builtTable confH.latch
    mem := [(0x1002, 0x9B), (0x1003, 0x7F), (0x1004, 0x05), (0x1005, 0x02), (0x1006, 0x83), (0x1007, 0xE7)] }

/-- `sReady` with other compute arguments. -/
def withArgs (bufBase bufSize offset length : Word) (s : State) : State :=
  { s with args := { bufBase := bufBase, bufSize := bufSize, offset := offset, length := length } }

/-- One region of one byte at `a`. -/
def withRegion (a : Nat) (kind : RegionKind) (s : State) : State :=
  { s with cfg := { s.cfg with regions := [{ base := a, size := 1, kind := kind }] } }

/-- PARAM_CHECK = REJECT. -/
def rejecting (s : State) : State := { s with cfg := { s.cfg with paramCheck := .reject } }

/-- BUILD of V-E5: width 8, POLY with an excess bit. -/
def sExcess : State := { State.reset with staging := conf 8 0x107 0 false false 0 }

/-- A BUILD about to write entry `n`, the ones below it written. -/
def sBuilding (n : BitVec 9) : State :=
  { sReady with
    status := State.reset.status
    engine := { State.reset.engine with seq := .building, idx := n } }

/-- The COMPUTE of P1 line 14 just accepted. -/
def sComputing : State := sReady.acceptCompute

/-! ## Command, status and error vectors (95_test_vectors.md section 2.4) -/

/-- V-E1, V-E6, V-E8, V-E10. -/
theorem test_compute_rejected :
    statusAfter (State.reset.withFetchWord 32 2) = some 0x48 ∧
      statusAfter (sExcess.acceptBuild.withFetchWord 32 2) = some 0x29 ∧
      statusAfter ((withArgs 0 1 1 1 sReady).withFetchWord 32 2) = some 0x5A ∧
      statusAfter ((withArgs 0xFFFFFFFF 2 0 0 sReady).withFetchWord 32 2) = some 0x5A := by decide
/-- V-E9, V-E13. -/
theorem test_compute_completes_or_aborts :
    statusAfter ((withArgs 0 1 1 0 sReady).withFetchWord 32 2) = some 0x3 ∧
      (nextOf (step (engineTurn (withArgs 0 1 1 0 sReady).acceptCompute))).map
          (fun t => [Reg.status, .result].map t.readReg) = some [0x6, 0x0] ∧
      statusAfter (engineTurn (withRegion 0x1002 .busError sComputing)) = some 0x6A := by decide
/-- V-E2, V-E4, V-E14. -/
theorem test_build_rejected :
    statusAfter ((State.reset.raiseError .notReady).withFetchWord 32 1) = some 0x148 ∧
      statusAfter ({ State.reset with staging := conf 33 0 0 false false 0 }.withFetchWord 32 1) = some 0x38 ∧
      statusAfter ((rejecting sExcess).withFetchWord 32 1) = some 0x38 := by decide
/-- V-E5, V-E7. -/
theorem test_build_accepted_and_completed :
    (nextOf (step (sExcess.withFetchWord 32 1))).map
        (fun t => [Reg.status, .mask, .cfg, .cfgPoly].map t.readReg) = some [0x1, 0xFF, 0x8, 0x107] ∧
      statusAfter (engineTurn ((sBuilding 255).raiseError .busy)) = some 0x2E := by decide
/-- V-E15. -/
theorem test_nop_while_busy : statusAfter ((sBuilding 7).withFetchWord 32 0) = some 0x1 := by decide
/-- V-E11, V-E12. -/
theorem test_bad_cmd :
    statusAfter (sReady.finishBuild.withFetchWord 32 0x11) = some 0x1E ∧
      statusAfter ((sReady.finishBuild.raiseError .badCmd).withFetchWord 32 0x7) = some 0x11E := by decide
/-- V-E3. -/
theorem test_status_clear :
    statusAfter (hostTurn (wr 0 .status 0x8) ((State.reset.raiseError .notReady).raiseError .config)) = some 0x0 := by decide
theorem test_v_e16_read_cmd : readAfter (hostTurn (rd 0 .cmd) sReady) = some [{ offset := 0, value := 0 }] := by decide
theorem test_v_e17_read_reserved :
    readAfter (hostTurn (.access { addr := 0x80, size := .word, kind := .read }) sReady) =
      some [{ offset := 0x80, value := 0 }] := by decide
theorem test_v_e18_tbl_data_not_ready :
    readAfter (hostTurn (rd 0 .tblData) (sBuilding 9)) = some [{ offset := 0x34, value := 0 }] := by decide

/-! ## Single steps of the other operations -/

theorem test_cfg_readback : sReady.readReg .cfg = 0x308 ∧ sReady.readReg .mask = 0xFF := by decide
theorem test_refl8_warn :
    { State.reset with latched := (conf 32 0x04C11DB7 0xFFFFFFFF true true 0xFFFFFFFF).latch }.readReg .status = 0x200 := by
  decide
theorem test_window_at_block_base :
    readAfter (hostTurn (rd 0x40000000 .poly) { sReady with cfg := { sReady.cfg with blockBase := 0x40000000 } }) =
      some [{ offset := 0x10, value := 0xD5 }] := by decide
theorem test_half_access_refused :
    step (hostTurn (.access { addr := 4, size := .half, kind := .read }) sReady) = .refused .narrowAccess := by rfl
theorem test_misaligned_access_refused :
    step (hostTurn (.access { addr := 6, size := .word, kind := .read }) sReady) = .refused .misalignedAccess := by rfl
theorem test_outside_window_refused :
    step (hostTurn (.access { addr := 0x100, size := .word, kind := .read }) sReady) = .refused .outsideWindow := by rfl
theorem test_wait_holds_while_busy :
    (nextOf (step (hostTurn (wait 0) (sBuilding 3)))).map (·.host.ops) = some [wait 0] := by decide
theorem test_wait_ends_when_idle : (nextOf (step (hostTurn (wait 0) sReady))).map (·.host.ops) = some [] := by decide
theorem test_reset_event_clears_status :
    statusAfter (hostTurn .reset (sComputing.raiseError .busy)) = some 0 := by decide
theorem test_memory_write_sorted :
    Memory.write (Memory.write (Memory.write [] 7 1) 3 2) 7 0 = [(3, 2)] := by decide
theorem test_first_fold_requests_first_address :
    (nextOf (step (engineTurn sComputing))).map (·.portLog) = some [0x1002] := by decide
theorem test_first_fold_takes_first_byte :
    (nextOf (step (engineTurn sComputing))).map (·.trace.folded) = some [0x9B] := by decide
theorem test_raced_byte_is_free :
    ((sComputing.storeByte 0x1004 0x55).memRead 0x1004).1 = .byte (Config.freeByte 0) := by rfl
theorem test_device_byte_is_free :
    ((withRegion 0x1004 .device sComputing).memRead 0x1004).1 = .byte (Config.freeByte 0) := by rfl
theorem test_write_before_acceptance_is_seen :
    ((sReady.storeByte 0x1004 0x55).acceptCompute.memRead 0x1004).1 = .byte 0x55 := by rfl

/-! ## Witnesses: each obligation's hypotheses are met, each clause at the edge of its range -/

theorem witness_WindowSelectsRegisters :
    (0x48#8).toNat % 4 = 0 ∧ Reg.cfgXorout ≠ .reserved ∧ regAt 0x48 = .cfgXorout ∧ (0x4C#8).toNat % 4 = 0 ∧
      0x4C ≤ (0x4C#8).toNat ∧ (0xFC#8).toNat % 4 = 0 ∧ 0x4C ≤ (0xFC#8).toNat := by decide

theorem witness_StepRunsDecodedCommand :
    ∀ v ∈ [0#32, 1#32, 2#32, 3#32, 0xFFFFFFFF#32],
      let s := hostTurn (wr 0 .cmd v) sReady
      s.nextAgent = .host ∧
        s.host.ops = .access { addr := s.cfg.blockBase, size := .word, kind := .write v } :: [] :=
  fun _ _ => ⟨rfl, rfl⟩

theorem witness_StepRunsDecodedCommand_words :
    decode 2 = .command .compute ∧ decode 3 = .illegal .reservedOpcode ∧ decode 0xFFFFFFFF = .illegal .reservedBits := by
  decide

theorem witness_StepFollowsSchedule :
    (hostTurn .reset sReady).host.schedule = .host :: [] ∧ (engineTurn sComputing).host.schedule = .engine :: [] ∧
      (engineTurn sReady).host.schedule = .engine :: [] ∧ (engineTurn sReady).engine.seq = .idle ∧
      sComputing.host.schedule = [] ∧ sComputing.engine.seq ≠ .idle ∧ sReady.host.schedule = [] ∧
      sReady.engine.seq = .idle := by decide

theorem witness_NopChangesNothing :
    (0x10#32 ≠ 0 ∧ (0x10#32).toNat % 16 = 0) ∧ (0xFFFFFFF0#32 ≠ 0 ∧ (0xFFFFFFF0#32).toNat % 16 = 0) := by decide

theorem witness_IllegalWordRecordsBadCmd :
    (3#32 ≠ 0 ∧ 3#32 ≠ 1 ∧ 3#32 ≠ 2) ∧ sReady.status.err = false ∧ (sReady.raiseError .badCmd).status.err = true := by
  decide

theorem witness_CommandCheckOrder_build :
    decode 1 = .command .build ∧ (sBuilding 0).engine.seq ≠ .idle ∧
      (State.reset.engine.seq = .idle ∧ State.reset.staging.hashSize.toNat < 1) ∧
      (conf 33 0 0 false false 0).hashSize.toNat = 33 ∧
      ((rejecting sExcess).cfg.paramCheck = .reject ∧ (rejecting sExcess).staging.hashSize.toNat = 8 ∧
        ((rejecting sExcess).staging.poly ||| (rejecting sExcess).staging.init ||| (rejecting sExcess).staging.xorout) &&&
            ~~~ maskOf 8 ≠ 0) ∧
      (sExcess.cfg.paramCheck ≠ .reject ∧ sExcess.engine.seq = .idle ∧ 1 ≤ sExcess.staging.hashSize.toNat ∧
        sExcess.staging.hashSize.toNat ≤ 32) := by decide

theorem witness_CommandCheckOrder_compute :
    decode 2 = .command .compute ∧ sComputing.engine.seq ≠ .idle ∧
      (State.reset.engine.seq = .idle ∧ State.reset.status.ready = false) ∧
      (sReady.engine.seq = .idle ∧ sReady.status.ready = true) ∧
      (withArgs 0 12 12 1 sReady).args.bufSize.toNat < 12 + 1 ∧
      2 ^ 32 < (withArgs 0xFFFFFFFF 2 0 0 sReady).args.bufBase.toNat + 2 ∧
      (let a := (withArgs 0xFFFFFFFF 1 0 1 sReady).args
       a.offset.toNat + a.length.toNat ≤ a.bufSize.toNat ∧ a.bufBase.toNat + a.bufSize.toNat = 2 ^ 32) := by decide

/-- Widths 1 and 32, the first with PARAM_CHECK = REJECT and no excess bits. -/
theorem witness_BuildAcceptanceLatches :
    (let s := rejecting { State.reset with staging := conf 1 1 0 true false 1 }
     s.engine.seq = .idle ∧ 1 = s.staging.hashSize.toNat ∧ s.cfg.paramCheck = .reject ∧
       ∀ k, s.staging.hashSize.toNat ≤ k →
         s.staging.poly.getLsbD k = false ∧ s.staging.init.getLsbD k = false ∧ s.staging.xorout.getLsbD k = false) ∧
      (let s := { State.reset with staging := conf 32 0x04C11DB7 0xFFFFFFFF true true 0xFFFFFFFF }
       s.engine.seq = .idle ∧ s.staging.hashSize.toNat = 32 ∧ s.cfg.paramCheck ≠ .reject) := by
  refine ⟨⟨rfl, rfl, rfl, fun k hk => ?_⟩, by decide⟩
  replace hk : 1 ≤ k := hk
  refine ⟨?_, by simp [rejecting, conf], ?_⟩ <;>
  · obtain ⟨j, rfl⟩ : ∃ j, k = j + 1 := ⟨k - 1, by omega⟩
    simp [rejecting, conf]

theorem witness_BuildRejectsBadParameters :
    (sExcess.engine.seq = .idle ∧ sExcess.cfg.paramCheck = .truncate ∧ sExcess.staging.hashSize.toNat = 8 ∧
      sExcess.staging.poly.getLsbD 8 = true) ∧
      ((rejecting sExcess).engine.seq = .idle ∧ (rejecting sExcess).cfg.paramCheck = .reject) ∧
      State.reset.staging.hashSize.toNat < 1 ∧ 32 < (conf 33 0 0 false false 0).hashSize.toNat ∧
      (rejecting { State.reset with staging := conf 32 0xFFFFFFFF 0 false false 0 }).staging.hashSize.toNat = 32 := by
  decide

theorem witness_ComputeAcceptanceCaptures :
    ∀ s, s = withArgs 0xFFFFFFFF 1 0 1 sReady ∨ s = withArgs 0 0 0 0 sReady ∨ s = sReady →
      s.engine.seq = .idle ∧ s.status.ready = true ∧
        s.args.offset.toNat + s.args.length.toNat ≤ s.args.bufSize.toNat ∧
        s.args.bufBase.toNat + s.args.bufSize.toNat ≤ 2 ^ 32 := by
  rintro s (rfl | rfl | rfl) <;> decide

theorem witness_CommandWhileBusyDisturbsNothing : (sBuilding 0).engine.seq ≠ .idle ∧ sComputing.engine.seq ≠ .idle := by
  decide

theorem witness_RaiseErrorRecords : sReady.status.err = false ∧ (sReady.raiseError .bus).status.err = true := by decide

theorem witness_FirstErrorIsKept : sReady.status.err = false ∧ sReady.status.errLost = false := by decide

/-- The four ways of the statement: nothing, an error, a clearing write, reset. -/
theorem witness_ErrorFieldsChangeOnlyByRule :
    (∃ t, step (hostTurn (rd 0 .status) sReady) = .next t) ∧
    (∃ t, step (hostTurn (command 0 .compute) State.reset) = .next t) ∧
    (∃ t, step (hostTurn (clear 0) (sReady.raiseError .bus)) = .next t) ∧
    (hostTurn (clear 0) (sReady.raiseError .bus)).WritesReg .status 0xC ∧
    (∃ t, step (hostTurn .reset sReady) = .next t) ∧ (hostTurn .reset sReady).Resets :=
  ⟨⟨_, rfl⟩, ⟨_, rfl⟩, ⟨_, rfl⟩, ⟨rfl, [], rfl⟩, ⟨_, rfl⟩, ⟨rfl, [], rfl⟩⟩

theorem witness_BuildStepWritesOneEntry :
    ((sBuilding 0).engine.seq = .building ∧ (sBuilding 0).engine.idx.toNat < 256) ∧
      ((sBuilding 255).engine.seq = .building ∧ (sBuilding 255).engine.idx.toNat < 256) := by decide

theorem witness_BuildRunsToCompletion :
    ∀ s, s = sExcess ∨ s = { State.reset with staging := conf 1 0x1 0 false false 0 } ∨
        s = rejecting { State.reset with staging := conf 32 0x04C11DB7 0 false false 0 } →
      s.engine.seq = .idle ∧ 1 ≤ s.staging.hashSize.toNat ∧ s.staging.hashSize.toNat ≤ 32 ∧
        (s.cfg.paramCheck = .reject →
          (s.staging.poly ||| s.staging.init ||| s.staging.xorout) &&& ~~~ maskOf s.staging.hashSize.toNat = 0) := by
  rintro s (rfl | rfl | rfl) <;> decide

/-- Two states of equal staging and different tables, memories and latched configurations. -/
theorem witness_BuildTableIsStable :
    let s' := { State.reset with staging := confH }
    sReady.engine.seq = .idle ∧ s'.engine.seq = .idle ∧ sReady.staging = s'.staging ∧ sReady.configError = false ∧
      s'.configError = false ∧ sReady.latched ≠ s'.latched ∧ sReady.mem ≠ s'.mem := by decide

theorem witness_ComputeStepFoldsOneByte :
    (sComputing.engine.seq = .computing ∧ sComputing.engine.i.toNat < sComputing.engine.cLen.toNat ∧
      regionKindAt sComputing.cfg 0x1002 = .memory ∧ 0x1002 ∉ sComputing.trace.raced) ∧
    0x1002 ∈ (sComputing.storeByte 0x1002 1).trace.raced ∧
    regionKindAt (withRegion 0x1002 .device sComputing).cfg 0x1002 = .device ∧
    regionKindAt (withRegion 0x1002 .busError sComputing).cfg 0x1002 = .busError ∧
    (let s := (withArgs 0xFFFFFFFF 1 0 1 sReady).acceptCompute
     s.engine.i.toNat < s.engine.cLen.toNat ∧ s.engine.readAddress = 2 ^ 32 - 1) ∧
    (let s := (withArgs 0 1 1 0 sReady).acceptCompute
     s.engine.seq = .computing ∧ s.engine.cLen.toNat ≤ s.engine.i.toNat) := by decide

theorem witness_ComputeRunsToResult :
    ∀ s, s = sReady ∨ s = withArgs 0xFFFFFFFF 1 1 0 sReady ∨ s = withRegion 0x1008 .device sReady →
      s.engine.seq = .idle ∧ s.status.ready = true ∧
        s.args.offset.toNat + s.args.length.toNat ≤ s.args.bufSize.toNat ∧
        s.args.bufBase.toNat + s.args.bufSize.toNat ≤ 2 ^ 32 ∧
        ∀ k, k < s.args.length.toNat →
          regionKindAt s.cfg (s.args.bufBase.toNat + s.args.offset.toNat + k) ≠ .busError := by
  rintro s (rfl | rfl | rfl) <;> decide

theorem witness_ComputeRequestsExactlyItsRange :
    exec .compute sReady = .next sComputing ∧ sReady.engine.seq = .idle ∧ sComputing.engine.seq = .computing ∧
      (∀ k, k < sReady.args.length.toNat → regionKindAt sReady.cfg (0x1000 + 2 + k) ≠ .busError) ∧
      exec .compute State.reset = .next (State.reset.raiseError .notReady) := by
  refine ⟨rfl, by decide, by decide, by decide, rfl⟩

/-- The last address of the range answers BusError, the earlier ones do not. -/
theorem witness_BusErrorAbortIsPrecise :
    let s := withRegion 0x1008 .busError sReady
    s.engine.seq = .idle ∧ exec .compute s = .next s.acceptCompute ∧ s.acceptCompute.engine.seq = .computing ∧
      6 < s.args.length.toNat ∧
      regionKindAt s.cfg (s.args.bufBase.toNat + s.args.offset.toNat + 6) = .busError ∧
      ∀ j, j < 6 → regionKindAt s.cfg (s.args.bufBase.toNat + s.args.offset.toNat + j) ≠ .busError := by
  refine ⟨by decide, rfl, by decide, by decide, by decide, by decide⟩

theorem witness_ComputeWritesOnlyItsOwn :
    exec .compute sReady = .next sComputing ∧ sComputing.engine.seq = .computing ∧
      ∃ t, engineStep sComputing = .next t := ⟨rfl, rfl, _, rfl⟩

theorem witness_OnlyBufferWritesChangeMemory :
    Memory.wf sReady.mem = true ∧ (hostTurn (.mem 0xFFFFFFFF 1) sReady).Stores 0xFFFFFFFF 1 ∧
      (∃ t, step (hostTurn (.mem 0xFFFFFFFF 1) sReady) = .next t) ∧
      (∀ a b, ¬ (hostTurn .reset sReady).Stores a b) ∧ ∃ t, step (hostTurn .reset sReady) = .next t :=
  ⟨by decide, ⟨rfl, [], rfl⟩, ⟨_, rfl⟩, fun a b h => by obtain ⟨-, rest, h⟩ := h; simp [hostTurn] at h, _, rfl⟩

/-- First and last address of the range, an address already folded, and the two neighbours of the range. -/
theorem witness_RacingWriteFoldsFreeByte :
    sComputing.engine.seq = .computing ∧
      (0x1000 + 2 + 0 ≤ (0x1002#32).toNat ∧ (0x1008#32).toNat < 0x1000 + 2 + 7 ∧
        regionKindAt sComputing.cfg 0x1008 = .memory) ∧
      (let s := sComputing.foldByte 0x9B
       s.engine.seq = .computing ∧ s.engine.i.toNat = 1 ∧ (0x1002#32).toNat < 0x1000 + 2 + 1) ∧
      (0x1001#32).toNat < 0x1000 + 2 ∧ 0x1000 + 2 + 7 ≤ (0x1009#32).toNat ∧ sReady.engine.seq ≠ .computing := by decide

theorem witness_ReadbackRegistersShowLatchedState :
    sReady.status.ready = true ∧ State.reset.status.ready = false := by decide

theorem witness_ReadReturnsRegisterAndChangesNothing :
    (let s := hostTurn (rd 0 .cmd) (sBuilding 0)
     s.nextAgent = .host ∧ s.host.ops = .access { addr := 0, size := .word, kind := .read } :: []) ∧
      (let s := hostTurn (.access { addr := 0xFC, size := .word, kind := .read }) sReady
       s.nextAgent = .host ∧ (0xFC#8).toNat % 4 = 0 ∧ 0x4C ≤ (0xFC#8).toNat ∧
         s.host.ops = .access { addr := s.cfg.blockBase + (0xFC#8).toNat, size := .word, kind := .read } :: []) := by decide

theorem witness_UndefinedAccessIsRefused :
    ∀ a ∈ [BusAccess.mk 0 .byte .read, BusAccess.mk 0xFE .half (.write 1), BusAccess.mk 0xFF .word .read,
        BusAccess.mk 1 .word (.write 1)],
      let s := hostTurn (.access a) sReady
      s.nextAgent = .host ∧ s.host.ops = .access a :: [] ∧ s.cfg.blockBase ≤ a.addr ∧ a.addr < s.cfg.blockBase + 256 ∧
        (a.size ≠ .word ∨ (a.size = .word ∧ (a.addr - s.cfg.blockBase) % 4 ≠ 0)) := by decide

/-- The invariant of `sReady`. -/
theorem sReady_inv : sReady.Inv := by
  have h : ∀ b, sReady.entry b = tableEntry confH.latch b := fun b => entry_builtTable (s := sReady) rfl b
  refine ⟨by decide, ⟨fun _ => ⟨by decide, by decide, rfl⟩, fun _ => h, fun _ b => ?_, fun _ => by decide, nofun⟩, nofun,
    nofun, fun _ => ⟨rfl, rfl⟩, nofun⟩
  rw [h b]
  exact tableEntry_and_not_mask _ b

/-- The invariant of a BUILD about to write its last entry. -/
theorem sBuilding_inv : (sBuilding 255).Inv := by
  refine ⟨by decide, ⟨nofun, nofun, nofun, nofun, fun _ => rfl⟩,
    fun _ => ⟨⟨by decide, by decide, rfl⟩, by decide, fun b _ => ?_⟩, nofun, fun _ => ⟨rfl, rfl⟩, nofun⟩
  exact entry_builtTable (s := sBuilding 255) rfl b

theorem sComputing_inv : sComputing.Inv := Inv.acceptCompute sReady_inv rfl (by decide)

/-- The host's side is no part of the invariant. -/
theorem turn_inv {s : State} (h : s.Inv) (op : HostOp) : (hostTurn op s).Inv ∧ (engineTurn s).Inv :=
  ⟨Inv.of_frame h rfl rfl rfl rfl rfl rfl, Inv.of_frame h rfl rfl rfl rfl rfl rfl⟩

theorem witness_LatchedChangesOnlyAtBuild :
    (∃ t, step (hostTurn (command 0 .build) sReady) = .next t) ∧ (hostTurn (command 0 .build) sReady).WritesCmd 1 ∧
      (∃ t, step (hostTurn .reset sReady) = .next t) :=
  ⟨⟨_, rfl⟩, ⟨rfl, [], rfl⟩, _, rfl⟩

theorem witness_TableChangesOnlyInBuild :
    (∃ t, step (engineTurn (sBuilding 255)) = .next t) ∧ (engineTurn (sBuilding 255)).Engages .building ∧
      (engineTurn sReady).Inv ∧ (engineTurn sReady).status.ready = true ∧ ∃ t, step (engineTurn sReady) = .next t :=
  ⟨⟨_, rfl⟩, ⟨rfl, rfl⟩, (turn_inv sReady_inv .reset).2, rfl, _, rfl⟩

/-- An accepted BUILD, a BUILD's last step, reset, and a BUILD rejected with BUSY and with CONFIG. -/
theorem witness_ReadyChangesOnlyByRule :
    (∃ t, step (hostTurn (command 0 .build) sReady) = .next t ∧ t.engine.seq = .building) ∧
      (∃ t, step (engineTurn (sBuilding 255)) = .next t ∧ t.engine.seq = .idle) ∧
      (∃ t, step (hostTurn .reset sReady) = .next t) ∧
      (∃ t, step (hostTurn (command 0 .build) sComputing) = .next t) ∧ sComputing.engine.seq ≠ .idle ∧
      (∃ t, step (hostTurn (command 0 .build) State.reset) = .next t ∧ t.engine.seq = .idle) ∧
      (hostTurn (command 0 .build) State.reset).WritesCmd 1 :=
  ⟨⟨_, rfl, rfl⟩, ⟨_, rfl, rfl⟩, ⟨_, rfl⟩, ⟨_, rfl⟩, by decide, ⟨_, rfl, rfl⟩, rfl, [], rfl⟩

/-- A BUILD's last step, a COMPUTE's completing and first step, a CMD write and a STATUS write. -/
theorem witness_DoneChangesOnlyByRule :
    (∃ t, step (engineTurn (sBuilding 255)) = .next t ∧ t.engine.seq = .idle) ∧
      (let s := engineTurn (withArgs 0 1 1 0 sReady).acceptCompute
       s.Engages .computing ∧ s.engine.cLen.toNat ≤ s.engine.i.toNat ∧ ∃ t, step s = .next t) ∧
      ((engineTurn sComputing).Engages .computing ∧ sComputing.engine.i.toNat < sComputing.engine.cLen.toNat ∧
        ∃ t, step (engineTurn sComputing) = .next t) ∧
      ((hostTurn (command 0 .compute) sReady).WritesCmd 2 ∧ ∃ t, step (hostTurn (command 0 .compute) sReady) = .next t) ∧
      (hostTurn (clear 0) sReady).WritesReg .status 0xC ∧ ∃ t, step (hostTurn (clear 0) sReady) = .next t :=
  ⟨⟨_, rfl, rfl⟩, ⟨⟨rfl, rfl⟩, by decide, _, rfl⟩, ⟨⟨rfl, rfl⟩, by decide, _, rfl⟩, ⟨⟨rfl, [], rfl⟩, _, rfl⟩,
    ⟨rfl, [], rfl⟩, _, rfl⟩

theorem witness_ResultChangesOnlyAtCompletion :
    (let s := engineTurn (withArgs 0 1 1 0 sReady).acceptCompute
     s.Inv ∧ s.Engages .computing ∧ s.engine.cLen.toNat ≤ s.engine.i.toNat ∧ ∃ t, step s = .next t) ∧
      ((engineTurn sComputing).Inv ∧ sComputing.engine.i.toNat < sComputing.engine.cLen.toNat ∧
        ¬ (engineTurn sComputing).Resets ∧ ∃ t, step (engineTurn sComputing) = .next t) ∧
      ((hostTurn .reset sComputing).Inv ∧ (hostTurn .reset sComputing).Resets ∧
        ∃ t, step (hostTurn .reset sComputing) = .next t) := by
  have h : (withArgs 0 1 1 0 sReady).Inv := Inv.of_frame sReady_inv rfl rfl rfl rfl rfl rfl
  refine ⟨⟨(turn_inv (Inv.acceptCompute h rfl (by decide)) .reset).2, ⟨rfl, rfl⟩, by decide, _, rfl⟩,
    ⟨(turn_inv sComputing_inv .reset).2, by decide, fun hr => ?_, _, rfl⟩,
    (turn_inv sComputing_inv .reset).1, ⟨rfl, [], rfl⟩, _, rfl⟩
  obtain ⟨hn, -⟩ := hr
  exact absurd hn (by decide)

theorem witness_OnlyAcceptedCommandsLeaveIdle :
    (∃ t, step (hostTurn (command 0 .build) sReady) = .next t ∧ t.engine.seq ≠ .idle) ∧ sReady.engine.seq = .idle ∧
      (∃ t, step (engineTurn (sBuilding 255)) = .next t) ∧ (sBuilding 255).engine.seq ≠ .idle :=
  ⟨⟨_, rfl, by decide⟩, rfl, ⟨_, rfl⟩, by decide⟩

theorem witness_RegisterWriteDoesNotReachRunningCommand :
    (hostTurn (wr 0 .length 0) sComputing).WritesReg .length 0 ∧
      (∃ t, step (hostTurn (wr 0 .length 0) sComputing) = .next t) ∧
      (hostTurn (wr 0 .poly 7) (sBuilding 9)).WritesReg .poly 7 ∧
      ∃ t, step (hostTurn (wr 0 .poly 7) (sBuilding 9)) = .next t :=
  ⟨⟨rfl, [], rfl⟩, ⟨_, rfl⟩, ⟨rfl, [], rfl⟩, _, rfl⟩

theorem witness_ResetLeavesRuleValues :
    (hostTurn .reset sComputing).nextAgent = .host ∧ (hostTurn .reset sComputing).host.ops = .reset :: [] := by decide

theorem witness_MaskHasWidthOnes : (1 ≤ 1 ∧ 1 ≤ 32) ∧ (1 ≤ 32 ∧ 32 ≤ 32) := by decide

/-- Widths 1 and 32, as BUILD latches them. -/
theorem witness_latched_widths :
    (1 ≤ (conf 1 1 0 false true 0).latch.w ∧ (conf 1 1 0 false true 0).latch.w ≤ 32) ∧
      (1 ≤ (conf 32 0x04C11DB7 0 false false 0).latch.w ∧ (conf 32 0x04C11DB7 0 false false 0).latch.w ≤ 32) := by decide

theorem witness_CrcStepTestsTopBit :
    (conf 1 1 0 false true 0).latch.w = 1 ∧ (conf 32 0x04C11DB7 0 false false 0).latch.w = 32 ∧
      (0x80000000#32).getLsbD (32 - 1) = true ∧ (0x7FFFFFFF#32).getLsbD (32 - 1) = false := by decide

theorem witness_ReflectedTableClosedForms :
    (let p := conf 16 0x1021 0 true false 0
     p.refin = true ∧ p.refout = false ∧ 16 ≤ p.w ∧ p.w ≤ 32) ∧
      (let p := conf 32 0x04C11DB7 0 true true 0
       p.refin = true ∧ p.refout = true ∧ 16 ≤ p.w ∧ p.w ≤ 32) := by decide

/-- Width 8 with excess bits in all three parameters, and width 3 with an excess bit of XOROUT. -/
theorem witness_ExcessBitsHaveNoEffect :
    (let p := conf 8 0x07 0x12 false false 0x34
     let q := conf 8 0x107 0x912 false false 0x80000034
     q.hashSize = p.hashSize ∧ q.refin = p.refin ∧ q.refout = p.refout ∧ 1 ≤ p.w ∧ p.w ≤ 32 ∧ 8 ≤ p.w ∧
       q.poly &&& maskOf p.w = p.poly &&& maskOf p.w ∧ q.init &&& maskOf p.w = p.init &&& maskOf p.w ∧
       q.xorout &&& maskOf p.w = p.xorout &&& maskOf p.w) ∧
      (let p := conf 3 0x3 0 true true 0x7
       let q := conf 3 0x3 0 true true 0xF
       q.hashSize = p.hashSize ∧ q.refin = p.refin ∧ q.refout = p.refout ∧ 1 ≤ p.w ∧ p.w ≤ 32 ∧ q.poly = p.poly ∧
         q.init = p.init ∧ q.xorout &&& maskOf p.w = p.xorout &&& maskOf p.w) := by decide

theorem witness_TableEntryFollowsTheRule :
    1 ≤ (conf 9 0x1 0 false false 0).latch.w ∧ (conf 9 0x1 0 false false 0).latch.w ≤ 32 ∧
      (conf 8 0x1 0 false false 0).latch.w = 8 := by decide

theorem witness_ReflectedFoldFitsByte :
    (let p := conf 1 1 0xFFFFFFFF true true 0
     p.refout = true ∧ 1 ≤ p.w ∧ p.w ≤ 32) ∧
      (let p := conf 32 0x04C11DB7 0xFFFFFFFF true true 0
       p.refout = true ∧ 1 ≤ p.w ∧ p.w ≤ 32) := by decide

theorem witness_ResultInRangeAndEmptyInput :
    (1 ≤ (conf 1 1 0 false true 0).w ∧ (conf 1 1 0 false true 0).w ≤ 32) ∧
      (1 ≤ (conf 32 0x04C11DB7 0 false false 0).w ∧ (conf 32 0x04C11DB7 0 false false 0).w ≤ 32) := by decide

theorem witness_ResidueIsZero :
    confH.hashSize = 8 ∧ confH.refin = true ∧ confH.refout = true ∧ confH.init = 0 ∧ confH.xorout = 0 := by decide

theorem witness_TableCrcEqualsBitSerial :
    (let p := conf 8 0x07 0 false false 0
     p.refin = false ∧ p.refout = false ∧ 8 ≤ p.w ∧ p.w ≤ 32) ∧
      (let p := conf 32 0x04C11DB7 0xFFFFFFFF false false 0xFFFFFFFF
       p.refin = false ∧ p.refout = false ∧ 8 ≤ p.w ∧ p.w ≤ 32) := by decide

theorem witness_StartStatesMeetInvariant : State.reset.Start :=
  ⟨Config.default, [], [], [], by decide, rfl⟩

theorem witness_StepKeepsInvariant :
    ((engineTurn (sBuilding 255)).Inv ∧ ∃ t, step (engineTurn (sBuilding 255)) = .next t) ∧
      ((engineTurn sComputing).Inv ∧ ∃ t, step (engineTurn sComputing) = .next t) ∧
      ((hostTurn (.mem 0x1002 1) sComputing).Inv ∧ ∃ t, step (hostTurn (.mem 0x1002 1) sComputing) = .next t) :=
  ⟨⟨(turn_inv sBuilding_inv .reset).2, _, rfl⟩, ⟨(turn_inv sComputing_inv .reset).2, _, rfl⟩,
    (turn_inv sComputing_inv _).1, _, rfl⟩

/-- A host that writes WIDTH and then BUILD, from reset. -/
def sFirst : State :=
  { State.reset with host := { ops := [wr 0 .width 8, command 0 .build], schedule := [.host, .host], rdLog := [] } }

/-- A reachable state that is BUILDING. -/
theorem witness_ReachableStatesMeetR40 : ∃ s : State, s.Reachable ∧ s.engine.seq = .building := by
  have h0 : sFirst.Reachable := .start ⟨Config.default, [], _, _, by decide, rfl⟩
  obtain ⟨t, ht, u, hu, hq⟩ : ∃ t, step sFirst = .next t ∧ ∃ u, step t = .next u ∧ u.engine.seq = .building :=
    ⟨_, rfl, _, rfl, rfl⟩
  exact ⟨u, .next (.next h0 ht) hu, hq⟩

theorem witness_OnlyUndefinedAccessStops :
    (hostTurn (.access { addr := 2, size := .word, kind := .read }) sReady).Inv ∧
      BusAccess.wellFormed sReady.cfg { addr := 2, size := .word, kind := .read } = false ∧
      (hostTurn (.poll 0x100 1 0) sReady).Inv ∧
      BusAccess.wellFormed sReady.cfg { addr := 0x100, size := .word, kind := .read } = false ∧
      (hostTurn (rd 0 .cfgXorout) sReady).Inv :=
  ⟨(turn_inv sReady_inv _).1, by decide, (turn_inv sReady_inv _).1, by decide, (turn_inv sReady_inv _).1⟩

theorem witness_BusyEngineReturnsToIdle :
    ((sBuilding 255).Inv ∧ (sBuilding 255).host.schedule = [] ∧ (sBuilding 255).engine.seq = .building) ∧
      (sComputing.Inv ∧ sComputing.host.schedule = [] ∧ sComputing.engine.seq = .computing) :=
  ⟨⟨sBuilding_inv, rfl, rfl⟩, sComputing_inv, rfl, rfl⟩

/-- Two states with different tables and datapath registers, and a step of each kind of answer. -/
theorem witness_UnspecifiedStateIsUnobservable :
    State.reset.status.ready = false ∧ State.reset.engine.seq = .idle ∧
      { sReady.engine with crc := 5 }.seq = .idle ∧ (hostTurn (rd 0 .tblData) sReady).Alike (hostTurn (rd 0 .tblData) sReady) ∧
      (∃ t, step (hostTurn (rd 0 .tblData) sReady) = .next t) ∧
      step (hostTurn (.access { addr := 2, size := .word, kind := .read }) sReady) = .refused .misalignedAccess ∧
      step (engineTurn (sBuilding 256)) = .fault .tableIndexOutOfRange :=
  ⟨rfl, rfl, rfl, ⟨rfl, rfl, rfl, rfl, rfl, rfl, rfl, rfl, rfl, rfl, rfl, rfl, fun _ => rfl, nofun, nofun⟩, ⟨_, rfl⟩, rfl, rfl⟩

end Sys2Proof.Tests
end

/-! ## Buffer memory: which steps change it -/

namespace Sys2Proof.Machine

/-- R144: no command word, legal or not, writes the buffer memory at its CMD write. -/
theorem dispatch_mem {s t : State} {v : Word} (h : dispatch s v = .next t) : t.mem = s.mem := by
  obtain ⟨-, hd⟩ | ⟨code, -, hd⟩ | ⟨-, -, -, hd⟩ | ⟨-, -, -, -, hd⟩ := dispatch_cases s v <;> rw [hd] at h <;> cases h
  · rfl
  · exact State.raiseError_mem s code
  · exact State.acceptBuild_mem s
  · exact State.acceptCompute_mem s

/-- R50: the engine's read port writes no memory. -/
theorem memRead_mem {s u : State} {a : Nat} {p : PortAnswer} (h : s.memRead a = (p, u)) : u.mem = s.mem := by
  obtain ⟨-, -, -, -, -, -, -, -, -, hmem, -⟩ := memRead_frame h
  exact hmem

/-- The step of a buffer write is one `storeByte`, the turn and the operation used up. -/
theorem step_of_stores {s : State} {a : Word} {b : Byte} (hw : s.Stores a b) :
    step s = .next (s.takeTurn.dropOp.storeByte a b) := by
  obtain ⟨hn, rest, ho⟩ := hw
  simp [step, hn, hostStep, ho]

/-- R50: a step that is no buffer write keeps the memory. -/
theorem step_mem_of_not_stores {s t : State} (hn : ∀ a b, ¬ s.Stores a b) (h : step s = .next t) : t.mem = s.mem := by
  cases step_moves h
  case stored a b hw ht => exact absurd hw (hn a b)
  case folded hm ht => simp [ht, memRead_mem hm]
  case aborted hm ht => simp [ht, memRead_mem hm]
  case command ht => simp [dispatch_mem ht]
  case polled ht => obtain rfl | rfl := ht <;> simp
  -- In the cases left, `t` is named outright by updates that each have their `mem` lemma.
  all_goals next ht => simp [ht]

/-- Settles O26: the step of a buffer write is one `Memory.write`, read back by `Memory.read_write`; every other step keeps the
memory itself. -/
theorem onlyBufferWritesChangeMemory : Obligations.OnlyBufferWritesChangeMemory := by
  intro s t hwf h
  refine ⟨fun a b hw x => ?_, fun hn x => ?_⟩
  · rw [step_of_stores hw] at h
    cases h
    rw [State.storeByte_mem]
    exact Memory.read_write hwf a.toNat b x
  · rw [step_mem_of_not_stores hn h]

end Sys2Proof.Machine

namespace Sys2Proof.Machine

/-! ## The invariant of the machine (10_state.md rule R40) -/

/-- R144: every command word, legal or not, keeps the invariant at its CMD write. -/
theorem Inv.dispatch {s t : State} {v : Word} (h : s.Inv) (hd : dispatch s v = .next t) : t.Inv := by
  obtain ⟨-, heq⟩ | ⟨code, hc, heq⟩ | ⟨-, -, hcfg, heq⟩ | ⟨-, -, hr, ho, heq⟩ := dispatch_cases s v <;>
    rw [heq] at hd <;> cases hd
  · exact h
  · exact Inv.raiseError h hc
  · exact Inv.acceptBuild h hcfg
  · exact Inv.acceptCompute h hr ho

/-- Settles O56: one case of `step_moves` for each operation, each closed by that operation's lemma on the invariant. -/
theorem stepKeepsInvariant : Obligations.StepKeepsInvariant := by
  intro s t h hstep
  have hturn : s.takeTurn.Inv := Inv.takeTurn h
  have hop : s.takeTurn.dropOp.Inv := Inv.dropOp hturn
  cases step_moves hstep with
  | engineIdle _ _ ht => exact ht ▸ hturn
  | entry hq hi ht => exact ht ▸ Inv.writeEntry hturn hq.2 hi
  | built hq hi ht => exact ht ▸ Inv.finishBuild hturn hq.2 hi
  | folded hq hi _ d u hm ht =>
    obtain ⟨-, -, -, -, -, -, -, he, -⟩ := memRead_frame hm
    rw [State.takeTurn_engine] at he
    exact ht ▸ Inv.foldByte (Inv.memRead hturn hm) (by rw [he, hq.2]) (by rw [he]; exact hi) d
  | aborted _ _ _ _ hm ht => exact ht ▸ Inv.abortCompute (Inv.memRead hturn hm)
  | completed _ _ ht => exact ht ▸ Inv.finishCompute hturn
  | hostIdle _ _ ht => exact ht ▸ hturn
  | read _ _ _ _ _ ht => exact ht ▸ Inv.logRead hop _ _
  | polled _ _ _ _ _ _ off w ht =>
    obtain rfl | rfl := ht
    · exact Inv.logRead hop off w
    · exact Inv.logRead hturn off w
  | command _ _ ht => exact Inv.dispatch hop ht
  | status v _ ht => exact ht ▸ Inv.writeStatus hop v
  | staging _ _ _ _ _ _ ht => exact ht ▸ Inv.of_frame hop rfl rfl rfl rfl rfl rfl
  | args _ _ _ _ _ _ ht => exact ht ▸ Inv.of_frame hop rfl rfl rfl rfl rfl rfl
  | tblIndex _ _ _ _ _ _ ht => exact ht ▸ Inv.of_frame hop rfl rfl rfl rfl rfl rfl
  | ignored _ _ _ _ _ ht => exact ht ▸ hop
  | stored a b _ ht => exact ht ▸ Inv.storeByte hop a b
  | reset _ ht => exact ht ▸ Inv.blockReset hop

/-- Settles O55: after reset nothing is READY, busy or in error, and the memory is canonical by assumption. -/
theorem startStatesMeetInvariant : Obligations.StartStatesMeetInvariant := by
  rintro s ⟨cfg, mem, ops, schedule, hmem, rfl⟩
  exact ⟨hmem, ⟨nofun, nofun, nofun, nofun, nofun⟩, nofun, nofun, fun _ => ⟨rfl, rfl⟩, nofun⟩

/-- Every reachable state meets the invariant. -/
theorem State.Reachable.inv {s : State} (h : s.Reachable) : s.Inv := by
  induction h with
  | start h => exact startStatesMeetInvariant _ h
  | next _ ht ih => exact stepKeepsInvariant _ _ ih ht

/-- Settles O57: rule R40 is a part of the invariant, which every reachable state meets. -/
theorem reachableStatesMeetR40 : Obligations.ReachableStatesMeetR40 := by
  intro s hs
  have h : s.R40 := hs.inv.r40
  refine ⟨fun hr => ?_, h.buildingNotReady⟩
  obtain ⟨hlo, hhi, hmask⟩ := h.sound hr
  exact ⟨hlo, hhi, hmask, fun b => ⟨h.built hr b, h.masked hr b⟩, h.notBuilding hr⟩

end Sys2Proof.Machine

namespace Sys2Proof.Machine

/-! ## What the rules leave unspecified is unobservable (10_state.md rule R39)

Two alike states differ in table, engine and trace only. An operation that reads none of the three acts on both alike
(`Alike.map`); an operation that does read one is followed by a lemma of its own. -/

/-- The state with the parts in which alike states may differ taken from another one. -/
def State.withHidden (s o : State) : State := { s with table := o.table, engine := o.engine, trace := o.trace }

/-- Two answers of the machine are alike: the same stop, or next states that are alike. -/
inductive AnswersAlike : Host.Outcome State Fault Refusal → Host.Outcome State Fault Refusal → Prop
  | next {s t : State} (h : s.Alike t) : AnswersAlike (.next s) (.next t)
  | fault (f : Fault) : AnswersAlike (.fault f) (.fault f)
  | refused (r : Refusal) : AnswersAlike (.refused r) (.refused r)

theorem State.Alike.eq_withHidden {s t : State} (h : s.Alike t) : t = s.withHidden t := by
  obtain ⟨h1, h2, h3, h4, h5, h6, h7, h8, h9, h10, h11, -⟩ := h
  simp only [State.withHidden, ← h1, ← h2, ← h3, ← h4, ← h5, ← h6, ← h7, ← h8, ← h9, ← h10, ← h11]

theorem State.Alike.of_eq_withHidden {s t : State} (h : t = s.withHidden t) (hseq : t.engine.seq = s.engine.seq)
    (hready : s.status.ready = true → t.table = s.table)
    (hbuild : s.engine.seq = .building →
      t.engine.idx = s.engine.idx ∧ ∀ b : Byte, b.toNat < s.engine.idx.toNat → t.entry b = s.entry b)
    (hcomp : s.engine.seq = .computing →
      t.table = s.table ∧ t.trace = s.trace ∧ t.engine.crc = s.engine.crc ∧ t.engine.i = s.engine.i ∧
        t.engine.cBase = s.engine.cBase ∧ t.engine.cOff = s.engine.cOff ∧ t.engine.cLen = s.engine.cLen) :
    s.Alike t :=
  ⟨(congrArg State.cfg h :), (congrArg State.staging h :), (congrArg State.args h :), (congrArg State.tblIndex h :),
    (congrArg State.latched h :), (congrArg State.status h :), (congrArg State.result h :), (congrArg State.mem h :),
    (congrArg State.draws h :), (congrArg State.portLog h :), (congrArg State.host h :), hseq, hready, hbuild, hcomp⟩

theorem State.Alike.refl (s : State) : s.Alike s :=
  .of_eq_withHidden rfl rfl (fun _ => rfl) (fun _ => ⟨rfl, fun _ _ => rfl⟩) fun _ => ⟨rfl, rfl, rfl, rfl, rfl, rfl, rfl⟩

/-- An operation that neither reads nor writes the hidden parts, and keeps READY, keeps states alike. -/
theorem State.Alike.map (f : State → State) (hf : ∀ s o, f (s.withHidden o) = (f s).withHidden o)
    (hr : ∀ s, (f s).status.ready = s.status.ready) {s t : State} (h : s.Alike t) : (f s).Alike (f t) := by
  have hs : f s = (f s).withHidden s := hf s s
  have ht : f t = (f s).withHidden t := by rw [← hf, ← h.eq_withHidden]
  have hsEngine : (f s).engine = s.engine := (congrArg State.engine hs :)
  have hsTable : (f s).table = s.table := (congrArg State.table hs :)
  have hsTrace : (f s).trace = s.trace := (congrArg State.trace hs :)
  have htEngine : (f t).engine = t.engine := (congrArg State.engine ht :)
  have htTable : (f t).table = t.table := (congrArg State.table ht :)
  have htTrace : (f t).trace = t.trace := (congrArg State.trace ht :)
  refine .of_eq_withHidden ?_ ?_ ?_ ?_ ?_
  · rw [ht]; rfl
  · rw [htEngine, hsEngine]; exact h.seq
  · rw [hr, htTable, hsTable]; exact h.readyTable
  · simp only [State.entry, htEngine, hsEngine, htTable, hsTable]; exact h.building
  · simp only [htEngine, hsEngine, htTable, hsTable, htTrace, hsTrace]; exact h.computing

theorem State.Alike.takeTurn {s t : State} (h : s.Alike t) : s.takeTurn.Alike t.takeTurn :=
  h.map State.takeTurn (fun _ _ => rfl) fun _ => rfl

theorem State.Alike.dropOp {s t : State} (h : s.Alike t) : s.dropOp.Alike t.dropOp :=
  h.map State.dropOp (fun _ _ => rfl) fun _ => rfl

theorem State.Alike.logRead {s t : State} (h : s.Alike t) (off : BitVec 8) (v : Word) :
    (s.logRead off v).Alike (t.logRead off v) :=
  h.map (·.logRead off v) (fun _ _ => rfl) fun _ => rfl

theorem State.Alike.request {s t : State} (h : s.Alike t) (a : Nat) : (s.request a).Alike (t.request a) :=
  h.map (·.request a) (fun _ _ => rfl) fun _ => rfl

theorem State.Alike.drawByte {s t : State} (h : s.Alike t) : s.drawByte.2.Alike t.drawByte.2 :=
  h.map (·.drawByte.2) (fun _ _ => rfl) fun _ => rfl

theorem State.Alike.raiseError {s t : State} (h : s.Alike t) (code : ErrCode) :
    (s.raiseError code).Alike (t.raiseError code) :=
  h.map (·.raiseError code)
    (fun s _ => by cases he : s.status.err <;> simp [State.raiseError, State.withHidden, he])
    fun s => State.raiseError_ready s code

theorem State.Alike.writeStatus {s t : State} (h : s.Alike t) (v : Word) : (s.writeStatus v).Alike (t.writeStatus v) :=
  h.map (·.writeStatus v) (fun _ _ => by unfold State.writeStatus; split <;> split <;> rfl)
    fun s => State.writeStatus_ready s v

/-! ### Register reads and commands -/

theorem State.Alike.busy {s t : State} (h : s.Alike t) : t.busy = s.busy := by simp only [State.busy, h.seq]

/-- R36, R39: TBL_DATA shows the table only while READY = 1, and no other register shows a hidden part. -/
theorem State.Alike.readReg {s t : State} (h : s.Alike t) (reg : Reg) : t.readReg reg = s.readReg reg := by
  cases reg
  case status => simp only [State.readReg, State.statusWord, h.busy, h.status, h.latched]
  case tblData =>
    simp only [State.readReg, h.status, h.tblIndex]
    split
    · next hr => rw [h.readyTable hr]
    · rfl
  all_goals rw [h.eq_withHidden]; rfl

/-- R107: an accepted BUILD starts at entry 0, so that no entry is owed yet. -/
theorem State.Alike.acceptBuild {s t : State} (h : s.Alike t) : s.acceptBuild.Alike t.acceptBuild :=
  .of_eq_withHidden (by rw [h.eq_withHidden]; rfl) rfl (by simp) (by simp) (by simp)

/-- R126: an accepted COMPUTE sets every register it uses, and finds READY = 1, so the tables are equal. -/
theorem State.Alike.acceptCompute {s t : State} (h : s.Alike t) (hr : s.status.ready = true) :
    s.acceptCompute.Alike t.acceptCompute :=
  .of_eq_withHidden (by rw [h.eq_withHidden]; rfl) rfl h.readyTable (by simp) fun _ => by
    simp [h.readyTable hr, h.latched, h.args]

theorem State.Alike.exec {s t : State} (h : s.Alike t) (i : Instr) : AnswersAlike (exec i s) (exec i t) := by
  cases i with
  | nop => exact .next h
  | build =>
    have hc : t.configError = s.configError := by simp only [State.configError, h.staging, h.cfg]
    simp only [Machine.exec, execBuild, h.busy, hc]
    split
    · exact .next (h.raiseError .busy)
    · split
      · exact .next (h.raiseError .config)
      · exact .next h.acceptBuild
  | compute =>
    simp only [Machine.exec, execCompute, h.busy, h.status, h.args]
    split
    · exact .next (h.raiseError .busy)
    · split
      · exact .next (h.raiseError .notReady)
      · next hr =>
        split
        · exact .next (h.raiseError .bounds)
        · exact .next (h.acceptCompute (by simpa using hr))

theorem State.Alike.dispatch {s t : State} (h : s.Alike t) (v : Word) : AnswersAlike (dispatch s v) (dispatch t v) := by
  unfold Machine.dispatch
  cases decode v with
  | command i => exact h.exec i
  | illegal _ => exact .next (h.raiseError .badCmd)

theorem State.Alike.mapStaging {s t : State} (h : s.Alike t) (f : Staging → Staging) :
    State.Alike { s with staging := f s.staging } { t with staging := f t.staging } :=
  h.map (fun s => { s with staging := f s.staging }) (fun _ _ => rfl) fun _ => rfl

theorem State.Alike.mapArgs {s t : State} (h : s.Alike t) (f : Args → Args) :
    State.Alike { s with args := f s.args } { t with args := f t.args } :=
  h.map (fun s => { s with args := f s.args }) (fun _ _ => rfl) fun _ => rfl

theorem State.Alike.writeReg {s t : State} (h : s.Alike t) (reg : Reg) (v : Word) :
    AnswersAlike (s.writeReg reg v) (t.writeReg reg v) := by
  cases reg
  case cmd => exact h.dispatch v
  case status => exact .next (h.writeStatus v)
  case width => exact .next (h.mapStaging fun p => { p with hashSize := v.setWidth 6 })
  case mode => exact .next (h.mapStaging fun p => { p with refin := v.getLsbD 0, refout := v.getLsbD 1 })
  case poly => exact .next (h.mapStaging fun p => { p with poly := v })
  case init => exact .next (h.mapStaging fun p => { p with init := v })
  case xorout => exact .next (h.mapStaging fun p => { p with xorout := v })
  case bufBase => exact .next (h.mapArgs fun p => { p with bufBase := v })
  case bufSize => exact .next (h.mapArgs fun p => { p with bufSize := v })
  case offset => exact .next (h.mapArgs fun p => { p with offset := v })
  case length => exact .next (h.mapArgs fun p => { p with length := v })
  case tblIndex => exact .next (h.map (fun s => { s with tblIndex := v.setWidth 8 }) (fun _ _ => rfl) fun _ => rfl)
  all_goals exact .next h

/-! ### The host's turn -/

theorem Engine.inRange_iff {e : Engine} {a : Nat} :
    e.inRange a = true ↔ e.seq = .computing ∧ e.rangeStart ≤ a ∧ a < e.rangeStart + e.cLen.toNat := by
  simp [Engine.inRange, and_assoc]

/-- A running COMPUTE's range is the same in both states. -/
theorem State.Alike.inRange {s t : State} (h : s.Alike t) (a : Nat) : t.engine.inRange a = s.engine.inRange a := by
  rw [Bool.eq_iff_iff, Engine.inRange_iff, Engine.inRange_iff, h.seq]
  refine and_congr_right fun hq => ?_
  obtain ⟨-, -, -, -, hbase, hoff, hlen⟩ := h.computing hq
  rw [Engine.rangeStart, Engine.rangeStart, hbase, hoff, hlen]

theorem State.Alike.markRaced {s t : State} (h : s.Alike t) (a : Nat) : (s.markRaced a).Alike (t.markRaced a) :=
  .of_eq_withHidden (by rw [h.eq_withHidden]; rfl) h.seq h.readyTable h.building fun hq => by
    obtain ⟨htable, htrace, hregs⟩ := h.computing hq
    exact ⟨htable, by simp only [State.markRaced_trace, htrace], hregs⟩

theorem State.Alike.redrawFolded {s t : State} (h : s.Alike t) (j : Nat) :
    (s.redrawFolded j).Alike (t.redrawFolded j) :=
  .of_eq_withHidden (by rw [h.eq_withHidden]; rfl) h.seq h.readyTable h.building fun hq => by
    obtain ⟨htable, htrace, -, hregs⟩ := h.computing hq
    refine ⟨htable, ?_, ?_, hregs⟩
    · simp only [State.redrawFolded_trace, htrace, h.draws]
    · simp only [State.redrawFolded_engine, htable, htrace, h.draws, h.latched]

/-- R63: a racing write reads the engine of a running COMPUTE only, where alike states agree. -/
theorem State.Alike.race {s t : State} (h : s.Alike t) (a : Nat) : (s.race a).Alike (t.race a) := by
  simp only [State.race, h.inRange]
  split
  · next hin =>
    obtain ⟨hq, -⟩ := Engine.inRange_iff.1 hin
    obtain ⟨-, -, -, hi, hbase, hoff, -⟩ := h.computing hq
    have hstart : t.engine.rangeStart = s.engine.rangeStart := by rw [Engine.rangeStart, hbase, hoff, Engine.rangeStart]
    rw [hstart, hi]
    split
    · exact h.redrawFolded _
    · exact h.markRaced a
  · exact h

theorem State.Alike.storeByte {s t : State} (h : s.Alike t) (a : Word) (b : Byte) :
    (s.storeByte a b).Alike (t.storeByte a b) :=
  (h.race a.toNat).map (fun s => { s with mem := s.mem.write a.toNat b }) (fun _ _ => rfl) fun _ => rfl

/-- R180: reset gives every hidden part one value. -/
theorem State.Alike.blockReset {s t : State} (h : s.Alike t) : s.blockReset.Alike t.blockReset := by
  have heq : t.blockReset = s.blockReset := by rw [h.eq_withHidden]; rfl
  rw [heq]
  exact .refl _

theorem State.Alike.busAccess {s t : State} (h : s.Alike t) (a : BusAccess) :
    AnswersAlike (s.busAccess a) (t.busAccess a) := by
  simp only [State.busAccess, h.cfg]
  split
  · exact .refused _
  · cases a.kind with
    | read =>
      simp only [State.portAccess, h.readReg]
      exact .next (h.logRead _ _)
    | write v => exact h.writeReg _ v

theorem State.Alike.pollOnce {s t : State} (h : s.Alike t) (addr : Nat) (mask value : Word) :
    AnswersAlike (s.pollOnce addr mask value) (t.pollOnce addr mask value) := by
  simp only [State.pollOnce, h.cfg, h.readReg]
  split
  · exact .refused _
  · split
    · exact .next (h.dropOp.logRead _ _)
    · exact .next (h.logRead _ _)

theorem State.Alike.hostStep {s t : State} (h : s.Alike t) : AnswersAlike (hostStep s) (hostStep t) := by
  simp only [Machine.hostStep, h.host]
  split
  · exact .next h
  · exact h.dropOp.busAccess _
  · exact h.pollOnce _ _ _
  · exact .next (h.dropOp.storeByte _ _)
  · exact .next h.dropOp.blockReset

/-! ### The engine's turn -/

/-- R108: the entry written is the same in both states, so the entries up to IDX agree. -/
theorem State.Alike.entry_writeEntry {s t : State} (h : s.Alike t) (hq : s.engine.seq = .building)
    (hi : s.engine.idx.toNat < 256) (b : Byte) (hb : b.toNat ≤ s.engine.idx.toNat) :
    (t.writeEntry (s.engine.idx.setWidth 8)).entry b = (s.writeEntry (s.engine.idx.setWidth 8)).entry b := by
  obtain ⟨-, hentries⟩ := h.building hq
  rw [Machine.entry_writeEntry, Machine.entry_writeEntry, h.latched]
  split
  · rfl
  · next hne =>
    refine hentries b (lt_of_le_of_ne hb fun he => hne (BitVec.eq_of_toNat_eq ?_))
    rw [idx_setWidth hi, he]

theorem State.finishBuild_withHidden (s o : State) :
    (s.withHidden o).finishBuild = s.finishBuild.withHidden o.finishBuild := rfl

theorem State.Alike.writeEntry_eq_withHidden {s t : State} (h : s.Alike t) (b : Byte) :
    t.writeEntry b = (s.writeEntry b).withHidden (t.writeEntry b) := by
  rw [h.eq_withHidden]
  rfl

theorem State.Alike.writeEntry {s t : State} (h : s.Alike t) (hq : s.engine.seq = .building)
    (hi : s.engine.idx.toNat < 255) :
    (s.writeEntry (s.engine.idx.setWidth 8)).Alike (t.writeEntry (s.engine.idx.setWidth 8)) := by
  obtain ⟨hidx, -⟩ := h.building hq
  refine .of_eq_withHidden (h.writeEntry_eq_withHidden _) h.seq (fun hr => ?_) (fun _ => ⟨?_, fun b hb => ?_⟩) ?_
  · simp only [State.writeEntry_table, h.readyTable hr, h.latched]
  · simp only [State.writeEntry_engine, hidx]
  · have hsucc : (s.engine.idx + 1).toNat = s.engine.idx.toNat + 1 := by bv_omega
    simp only [State.writeEntry_engine, hsucc] at hb
    exact h.entry_writeEntry hq (by omega) b (by omega)
  · simp [hq]

/-- R108: after the last entry the tables agree everywhere. -/
theorem State.Alike.finishBuild {s t : State} (h : s.Alike t) (hq : s.engine.seq = .building)
    (hi : s.engine.idx.toNat = 255) :
    (s.writeEntry (s.engine.idx.setWidth 8)).finishBuild.Alike
      (t.writeEntry (s.engine.idx.setWidth 8)).finishBuild := by
  refine .of_eq_withHidden ?_ (by simp) (fun _ => table_ext fun b => ?_) (by simp) (by simp)
  · exact (congrArg State.finishBuild (h.writeEntry_eq_withHidden _)).trans (State.finishBuild_withHidden _ _)
  · simp only [State.finishBuild_table]
    exact h.entry_writeEntry hq (by omega) b (by have := b.isLt; omega)

theorem State.Alike.buildStep {s t : State} (h : s.Alike t) (hq : s.engine.seq = .building) :
    AnswersAlike (buildStep s) (buildStep t) := by
  obtain ⟨hidx, -⟩ := h.building hq
  unfold Machine.buildStep
  rw [hidx]
  split
  · by_cases hlast : s.engine.idx + 1 = 256
    · simp only [State.writeEntry_engine, hidx, hlast, if_true]
      exact .next (h.finishBuild hq (by bv_omega))
    · simp only [State.writeEntry_engine, hidx, hlast, if_false]
      exact .next (h.writeEntry hq (by bv_omega))
  · exact .fault _

/-- R55, R63: the read port answers both states alike during a COMPUTE, when their traces are equal. -/
theorem State.Alike.memRead {s t u : State} (h : s.Alike t) (htrace : t.trace = s.trace) {a : Nat} {p : PortAnswer}
    (hm : s.memRead a = (p, u)) : ∃ v, t.memRead a = (p, v) ∧ u.Alike v := by
  have hu : u = (s.memRead a).2 := by rw [hm]
  have hp : p = (s.memRead a).1 := by rw [hm]
  subst hu hp
  simp only [State.memRead, h.cfg, htrace, h.mem]
  have hd : t.drawByte.1 = s.drawByte.1 := by simp only [State.drawByte, h.draws]
  rw [hd]
  split
  · exact ⟨_, rfl, h.request a⟩
  · exact ⟨_, rfl, (h.request a).drawByte⟩
  · split
    · exact ⟨_, rfl, (h.request a).drawByte⟩
    · exact ⟨_, rfl, h.request a⟩

theorem State.Alike.foldByte {s t : State} (h : s.Alike t) (hq : s.engine.seq = .computing) (d : Byte) :
    (s.foldByte d).Alike (t.foldByte d) :=
  .of_eq_withHidden (by rw [h.eq_withHidden]; rfl) h.seq h.readyTable (by simp [hq]) fun _ => by
    obtain ⟨htable, htrace, hcrc, hi, hregs⟩ := h.computing hq
    refine ⟨htable, ?_, ?_, ?_, hregs⟩
    · simp only [State.foldByte_trace, htrace]
    · simp only [State.foldByte_engine, h.latched, htable, hcrc]
    · simp only [State.foldByte_engine, hi]

theorem State.Alike.abortCompute {s t : State} (h : s.Alike t) : s.abortCompute.Alike t.abortCompute :=
  .of_eq_withHidden
    (congrArg (fun u : State => { u with engine := { u.engine with seq := .idle } }) (h.raiseError .bus).eq_withHidden :)
    (by simp) (by simpa using h.readyTable) (by simp) (by simp)

theorem State.Alike.finishCompute {s t : State} (h : s.Alike t) (hq : s.engine.seq = .computing) :
    s.finishCompute.Alike t.finishCompute := by
  obtain ⟨-, -, hcrc, -⟩ := h.computing hq
  refine .of_eq_withHidden ?_ rfl h.readyTable (by simp) (by simp)
  rw [h.eq_withHidden] at hcrc ⊢
  simp only [State.finishCompute, hcrc]
  rfl

theorem State.Alike.computeStep {s t : State} (h : s.Alike t) (hq : s.engine.seq = .computing) :
    AnswersAlike (computeStep s) (computeStep t) := by
  obtain ⟨-, htrace, -, hi, hbase, hoff, hlen⟩ := h.computing hq
  have haddr : t.engine.readAddress = s.engine.readAddress := by
    rw [Engine.readAddress, hbase, hoff, hi, Engine.readAddress]
  unfold Machine.computeStep
  rw [hi, hlen, haddr]
  split
  · split
    · cases hm : s.memRead s.engine.readAddress with
      | mk p u =>
        obtain ⟨v, hv, huv⟩ := h.memRead htrace hm
        obtain ⟨-, -, -, -, -, -, -, heng, -⟩ := memRead_frame hm
        rw [hv]
        cases p with
        | byte d => exact .next (huv.foldByte (by rw [heng, hq]) d)
        | busError => exact .next huv.abortCompute
    · exact .fault _
  · exact .next (h.finishCompute hq)

theorem State.Alike.engineStep {s t : State} (h : s.Alike t) : AnswersAlike (engineStep s) (engineStep t) := by
  simp only [Machine.engineStep, h.seq]
  split
  · exact .next h
  · next hq => exact h.buildStep hq
  · next hq => exact h.computeStep hq

/-- R39: a step answers alike states alike. -/
theorem State.Alike.step {s t : State} (h : s.Alike t) : AnswersAlike (step s) (step t) := by
  have hn : t.nextAgent = s.nextAgent := by simp only [State.nextAgent, h.host, h.busy]
  simp only [Machine.step, hn]
  split
  · exact h.takeTurn.hostStep
  · exact h.takeTurn.engineStep

theorem AnswersAlike.elim {x y : Host.Outcome State Fault Refusal} (h : AnswersAlike x y) :
    (∀ s', x = .next s' → ∃ t', y = .next t' ∧ s'.Alike t') ∧
      (∀ f, x = .fault f → y = .fault f) ∧ ∀ r, x = .refused r → y = .refused r := by
  cases h with
  | next h => exact ⟨fun _ he => Host.Outcome.next.inj he ▸ ⟨_, rfl, h⟩, nofun, nofun⟩
  | fault f => exact ⟨fun _ he => (nomatch he), fun _ he => he, nofun⟩
  | refused r => exact ⟨fun _ he => (nomatch he), nofun, fun _ he => he⟩

/-- Settles O60: register reads by `State.Alike.readReg`, the answers of a step by `State.Alike.step`. -/
theorem unspecifiedStateIsUnobservable : Obligations.UnspecifiedStateIsUnobservable := by
  refine ⟨fun s table engine trace hready hidle hidle' => ?_, fun s t h => ⟨h.readReg, h.step.elim⟩⟩
  exact .of_eq_withHidden rfl (hidle'.trans hidle.symm) (by simp [hready]) (by simp [hidle]) (by simp [hidle])

end Sys2Proof.Machine

namespace Sys2Proof.Machine

/-! ## The register window and the step of each kind of turn (10_state.md rules R25, R26, R180) -/

theorem offsetOf_regAt : ∀ {off : BitVec 8}, regAt off ≠ .reserved → offsetOf (regAt off) = off := by decide

theorem regAt_offsetOf (reg : Reg) : regAt (offsetOf reg) = reg := by cases reg <;> rfl

theorem regAt_eq_reserved_iff : ∀ {off : BitVec 8}, off.toNat % 4 = 0 → (regAt off = .reserved ↔ 0x4C ≤ off.toNat) := by
  decide

/-- Settles O4: `regAt` and `offsetOf` are inverse on the defined registers. -/
theorem windowSelectsRegisters : Obligations.WindowSelectsRegisters := by
  intro off hoff
  refine ⟨fun reg hreg => ⟨?_, ?_⟩, regAt_eq_reserved_iff hoff⟩
  · rintro rfl
    exact (offsetOf_regAt hreg).symm
  · rintro rfl
    exact regAt_offsetOf reg

theorem windowOffset_base_add (cfg : Config) (off : BitVec 8) : windowOffset cfg (cfg.blockBase + off.toNat) = off := by
  simp [windowOffset]

theorem accessRefusal_base_add_offsetOf (cfg : Config) (reg : Reg) :
    accessRefusal cfg (cfg.blockBase + (offsetOf reg).toNat) .word = none := by
  have hlt := (offsetOf reg).isLt
  have hmod : (offsetOf reg).toNat % 4 = 0 := by cases reg <;> rfl
  unfold accessRefusal
  rw [if_neg (by omega), if_neg (by simp), if_neg (by rw [Nat.add_sub_cancel_left]; omega)]

theorem writesCmd_iff_writesReg {s : State} {v : Word} : s.WritesCmd v ↔ s.WritesReg .cmd v := Iff.rfl

theorem step_of_host {s : State} (hn : s.nextAgent = .host) : step s = hostStep s.takeTurn := by
  simp only [step, hn]

theorem step_of_engages {s : State} {q : Seq} (h : s.Engages q) : step s = engineStep s.takeTurn := by
  simp only [step, h.1]

/-- A write to a register is `writeReg` on the state with the turn and the operation used up. -/
theorem step_of_writesReg {s : State} {reg : Reg} {v : Word} (h : s.WritesReg reg v) :
    step s = s.takeTurn.dropOp.writeReg reg v := by
  obtain ⟨hn, rest, ho⟩ := h
  simp only [step_of_host hn, hostStep, State.takeTurn_host, ho, State.busAccess, State.dropOp_cfg, State.takeTurn_cfg,
    accessRefusal_base_add_offsetOf, State.portAccess, windowOffset_base_add, regAt_offsetOf]

/-- R26: a write to CMD is the dispatch of the word written. -/
theorem step_of_writesCmd {s : State} {v : Word} (h : s.WritesCmd v) : step s = dispatch s.takeTurn.dropOp v :=
  step_of_writesReg (writesCmd_iff_writesReg.1 h)

theorem step_of_resets {s : State} (h : s.Resets) : step s = .next s.takeTurn.dropOp.blockReset := by
  obtain ⟨hn, rest, ho⟩ := h
  simp only [step_of_host hn, hostStep, State.takeTurn_host, ho]

/-- The state with the turn and the first operation used up. -/
theorem takeTurn_dropOp_eq {s : State} {op : HostOp} {rest : List HostOp} (ho : s.host.ops = op :: rest) :
    s.takeTurn.dropOp = { s with host := { s.host with ops := rest, schedule := s.host.schedule.tail } } := by
  simp only [State.dropOp, State.takeTurn, ho, List.tail_cons]

/-- Settles O5: the step dispatches the word, and dispatch runs what the word decodes to. -/
theorem stepRunsDecodedCommand : Obligations.StepRunsDecodedCommand := by
  intro s v rest hn ho
  rw [step_of_writesCmd ⟨hn, rest, ho⟩, takeTurn_dropOp_eq ho]
  exact ⟨fun i hd => by rw [dispatch, hd], fun why hd => by rw [dispatch, hd]⟩

/-- R71, R74: every command's word decodes to the command. -/
theorem decode_encode (i : Instr) : decode (encode i) = .command i := by cases i <;> rfl

/-- Settles O6: the write put in front is taken by the next step, and the queue is then as before. -/
theorem stepRunsFetchedCommand : Obligations.StepRunsFetchedCommand := by
  intro s i
  have hword : BitVec.ofNat 32 ((encode i).toNat % 2 ^ 32) = encode i := by
    rw [Nat.mod_eq_of_lt (encode i).isLt, BitVec.ofNat_toNat, BitVec.setWidth_eq]
  have hw : (s.withFetchWord 32 (encode i).toNat).WritesCmd (encode i) :=
    ⟨rfl, s.host.ops, by simp only [State.withFetchWord, hword]⟩
  rw [step_of_writesCmd hw, dispatch, decode_encode]
  rfl

/-- R39: every register reads 0 after reset. -/
theorem readReg_reset (reg : Reg) : State.reset.readReg reg = 0 := by cases reg <;> decide

theorem readReg_blockReset (s : State) (reg : Reg) : s.blockReset.readReg reg = 0 := by
  have heq : s.blockReset.readReg reg = State.reset.readReg reg := by cases reg <;> rfl
  rw [heq, readReg_reset]

/-- Settles O42: the step is the block's reset, which sets each field but the ones named last. -/
theorem resetLeavesRuleValues : Obligations.ResetLeavesRuleValues := by
  intro s rest hn ho
  refine ⟨_, step_of_resets ⟨hn, rest, ho⟩, rfl, readReg_blockReset _, rfl, rfl, fun _ => rfl, ?_⟩
  rw [takeTurn_dropOp_eq ho]
  rfl

end Sys2Proof.Machine

namespace Sys2Proof.Machine

/-! ## Register values, bit by bit (10_state.md rules R27, R30, R36, R37, R38) -/

/-- The bits of a flag inside the word. -/
theorem flagBit_getLsbD_of_lt (b : Bool) {n : Nat} (hn : n < 32) (k : Nat) :
    (flagBit b n).getLsbD k = (b && decide (k = n)) := by
  rw [flagBit_getLsbD, Bool.and_assoc]
  congr 1
  by_cases hk : k = n <;> simp [hk, hn]

theorem code_getLsbD_of_ge (c : ErrCode) {k : Nat} (hk : 4 ≤ k) : c.code.getLsbD k = false :=
  BitVec.getLsbD_of_ge _ _ hk

/-- The bits of ERR_CODE at its place in STATUS. -/
theorem codeField_getLsbD (c : ErrCode) (k : Nat) :
    (c.code.setWidth 32 <<< 4).getLsbD k = (decide (4 ≤ k) && c.code.getLsbD (k - 4)) := by
  rw [BitVec.getLsbD_shiftLeft, BitVec.getLsbD_setWidth]
  by_cases hk : k < 32
  · simp [hk, show k - 4 < 32 by omega, ← decide_not]
  · simp [hk, code_getLsbD_of_ge c (show 4 ≤ k - 4 by omega)]

/-- R30: STATUS, bit by bit. -/
theorem statusWord_getLsbD (s : State) (k : Nat) :
    s.statusWord.getLsbD k =
      ((s.busy && decide (k = 0)) || (s.status.ready && decide (k = 1)) || (s.status.done && decide (k = 2)) ||
        (s.status.err && decide (k = 3)) || (decide (4 ≤ k) && s.status.errCode.code.getLsbD (k - 4)) ||
        (s.status.errLost && decide (k = 8)) || (s.latched.refl8Warn && decide (k = 9))) := by
  simp only [State.statusWord, BitVec.getLsbD_or, codeField_getLsbD, flagBit_getLsbD_of_lt _ (show 0 < 32 by decide),
    flagBit_getLsbD_of_lt _ (show 1 < 32 by decide), flagBit_getLsbD_of_lt _ (show 2 < 32 by decide),
    flagBit_getLsbD_of_lt _ (show 3 < 32 by decide), flagBit_getLsbD_of_lt _ (show 8 < 32 by decide),
    flagBit_getLsbD_of_lt _ (show 9 < 32 by decide)]

theorem statusWord_high (s : State) {k : Nat} (hk : 10 ≤ k) : s.statusWord.getLsbD k = false := by
  rw [statusWord_getLsbD, code_getLsbD_of_ge _ (by omega)]
  simp [show k ≠ 0 by omega, show k ≠ 1 by omega, show k ≠ 2 by omega, show k ≠ 3 by omega, show k ≠ 8 by omega,
    show k ≠ 9 by omega]

theorem refl8Warn_eq_true {l : Latched} : l.refl8Warn = true ↔ l.refout = true ∧ l.width ≠ 8 := by
  have h8 : l.width ≠ 8 ↔ l.w ≠ 8 := by
    rw [Latched.w, ne_eq, ne_eq, BitVec.toNat_eq]
    rfl
  rw [h8, Latched.refl8Warn, Bool.and_eq_true, decide_eq_true_eq]

/-- Settles O28: each bit by `statusWord_getLsbD`. -/
theorem statusReadsItsFields : Obligations.StatusReadsItsFields := by
  intro s
  have hbit : ∀ k, (s.readReg .status).getLsbD k = s.statusWord.getLsbD k := fun _ => rfl
  refine ⟨?_, ?_, ?_, ?_, ?_, ?_, ?_, fun k hk => statusWord_high s hk⟩
  · rw [hbit, statusWord_getLsbD, ← busy_eq_true]
    simp
  · rw [hbit, statusWord_getLsbD]
    simp
  · rw [hbit, statusWord_getLsbD]
    simp
  · rw [hbit, statusWord_getLsbD]
    simp
  · apply BitVec.eq_of_getLsbD_eq
    intro k hk
    rw [BitVec.getLsbD_extractLsb', hbit, statusWord_getLsbD]
    simp [hk, show 4 + k ≠ 1 by omega, show 4 + k ≠ 2 by omega, show 4 + k ≠ 3 by omega,
      show 4 + k ≠ 8 by omega, show 4 + k ≠ 9 by omega]
  · rw [hbit, statusWord_getLsbD, code_getLsbD_of_ge _ (by omega)]
    simp
  · rw [hbit, statusWord_getLsbD, code_getLsbD_of_ge _ (by omega), ← refl8Warn_eq_true]
    simp

/-- Widening a field to a word adds no bit. -/
theorem getLsbD_setWidth_word {n : Nat} (hn : n ≤ 32) (x : BitVec n) (k : Nat) :
    (x.setWidth 32).getLsbD k = x.getLsbD k := by
  rw [BitVec.getLsbD_setWidth, Bool.and_eq_right_iff_imp, decide_eq_true_eq]
  exact fun hx => (BitVec.lt_of_getLsbD hx).trans_le hn

/-- R37: CFG, bit by bit. -/
theorem cfg_getLsbD (s : State) (k : Nat) :
    (s.readReg .cfg).getLsbD k =
      (s.latched.width.getLsbD k || (s.latched.refin && decide (k = 8)) || (s.latched.refout && decide (k = 9))) := by
  simp only [State.readReg, BitVec.getLsbD_or, getLsbD_setWidth_word (show 6 ≤ 32 by decide),
    flagBit_getLsbD_of_lt _ (show 8 < 32 by decide), flagBit_getLsbD_of_lt _ (show 9 < 32 by decide)]

theorem cfg_high (s : State) {k : Nat} (hk : 10 ≤ k) : (s.readReg .cfg).getLsbD k = false := by
  rw [cfg_getLsbD, BitVec.getLsbD_of_ge _ _ (by omega)]
  simp [show k ≠ 8 by omega, show k ≠ 9 by omega]

/-- MODE, bit by bit. -/
theorem mode_getLsbD (s : State) (k : Nat) :
    (s.readReg .mode).getLsbD k = ((s.staging.refin && decide (k = 0)) || (s.staging.refout && decide (k = 1))) := by
  simp only [State.readReg, BitVec.getLsbD_or, flagBit_getLsbD_of_lt _ (show 0 < 32 by decide),
    flagBit_getLsbD_of_lt _ (show 1 < 32 by decide)]

theorem tableAt_setWidth (s : State) (b : Byte) : tableAt s.table (b.setWidth 32) = s.entry b := by
  simp [tableAt, State.entry]

/-- A field of `n` bits read back after a write of `v`. -/
theorem setWidth_setWidth_word {n : Nat} (hn : n ≤ 32) (v : Word) :
    (v.setWidth n).setWidth 32 = v &&& BitVec.setWidth 32 (BitVec.allOnes n) := by
  apply BitVec.eq_of_getLsbD_eq
  intro k hk
  rw [BitVec.getLsbD_and, getLsbD_setWidth_word hn, getLsbD_setWidth_word hn, BitVec.getLsbD_setWidth,
    BitVec.getLsbD_allOnes, Bool.and_comm]

/-- Settles O29: CFG bit by bit by `cfg_getLsbD`; the other readback registers are the latched fields themselves. -/
theorem readbackRegistersShowLatchedState : Obligations.ReadbackRegistersShowLatchedState := by
  intro s
  have hhigh : ∀ k, 6 ≤ k → s.latched.width.getLsbD k = false := fun k hk => BitVec.getLsbD_of_ge _ _ hk
  refine ⟨fun hr => ?_, fun hr => ?_, rfl, ⟨?_, ?_, ?_, ?_, ?_, fun k hk => cfg_high s hk⟩, rfl, rfl, rfl,
    fun reg hreg v => ?_, fun v => ⟨_, rfl, ?_, ?_⟩⟩
  · rw [← tableAt_setWidth]
    exact if_pos hr
  · exact if_neg (by simp [hr])
  · apply BitVec.eq_of_getLsbD_eq
    intro k hk
    rw [BitVec.getLsbD_extractLsb', cfg_getLsbD]
    simp [hk, show k ≠ 8 by omega, show k ≠ 9 by omega]
  · rw [cfg_getLsbD, hhigh 6 (by decide)]
    simp
  · rw [cfg_getLsbD, hhigh 7 (by decide)]
    simp
  · rw [cfg_getLsbD, hhigh 8 (by decide)]
    simp
  · rw [cfg_getLsbD, hhigh 9 (by decide)]
    simp
  · fin_cases hreg <;> rfl
  · exact BitVec.setWidth_eq_extractLsb' (show 8 ≤ 32 by decide)
  · show ((v.setWidth 8).setWidth 32).toNat = v.toNat % 256
    rw [BitVec.toNat_setWidth_of_le (by decide), BitVec.toNat_setWidth]

/-- Bits above a field of `n` bits are not kept. -/
theorem setWidth_and_of_low_ones {n : Nat} {m : Word} (hm : m.setWidth n = BitVec.allOnes n) (v : Word) :
    (v &&& m).setWidth n = v.setWidth n := by
  rw [BitVec.setWidth_and, hm, BitVec.and_allOnes]

/-- Settles O30: the registers' reserved bits lie above the bits of their fields, and a write cuts them off. -/
theorem reservedReadsZeroIgnoresWrites : Obligations.ReservedReadsZeroIgnoresWrites := by
  intro s v
  refine ⟨fun off hmod hoff => ?_, fun k hk => ?_, fun k hk => ?_, fun k hk => ?_, fun k hk => statusWord_high s hk,
    fun k hk => cfg_high s hk, ?_, ?_, ?_, ?_, fun hrsvd => ?_⟩
  · have hreg : regAt off = .reserved := (regAt_eq_reserved_iff hmod).2 hoff
    rw [State.portAccess, hreg]
    exact ⟨rfl, rfl⟩
  · rw [State.readReg, getLsbD_setWidth_word (by decide), BitVec.getLsbD_of_ge _ _ hk]
  · simp [mode_getLsbD, show k ≠ 0 by omega, show k ≠ 1 by omega]
  · rw [State.readReg, getLsbD_setWidth_word (by decide), BitVec.getLsbD_of_ge _ _ hk]
  · rw [State.writeReg, State.writeReg, setWidth_and_of_low_ones (by decide)]
  · simp [State.writeReg]
  · rw [State.writeReg, State.writeReg, setWidth_and_of_low_ones (by decide)]
  · simp [State.writeReg, State.writeStatus]
  · have hd : decode v = .illegal .reservedBits := if_pos hrsvd
    rw [State.writeReg, dispatch, hd]

/-- R27, R29: a write to one register other than CMD and STATUS leaves the value of every other one, TBL_DATA apart, which
follows TBL_INDEX (R36). -/
theorem readReg_writeReg_other {s t : State} {reg other : Reg} {v : Word} (hcmd : reg ≠ .cmd) (hstatus : reg ≠ .status)
    (hdata : other ≠ .tblData) (hne : other ≠ reg) (h : s.writeReg reg v = .next t) :
    t.readReg other = s.readReg other := by
  cases reg with
  | cmd => contradiction
  | status => contradiction
  | _ => cases h; cases other <;> trivial

/-- The bits of a read-write register other than STATUS (R25). -/
def regBits : Reg → Word
  | .width => 0x3F
  | .mode => 0x3
  | .tblIndex => 0xFF
  | _ => 0xFFFFFFFF

/-- R184: a read-write register reads back what was written, cut to its bits. -/
theorem readReg_writeReg_same (s : State) (v : Word) {reg : Reg}
    (hreg : reg ∈ [Reg.width, .mode, .poly, .init, .xorout, .bufBase, .bufSize, .offset, .length, .tblIndex]) :
    ∃ t, s.writeReg reg v = .next t ∧ t.readReg reg = v &&& regBits reg := by
  have hall : v = v &&& 0xFFFFFFFF := (BitVec.and_allOnes (x := v)).symm
  cases reg <;> simp at hreg <;> refine ⟨_, rfl, ?_⟩
  case width => exact setWidth_setWidth_word (show 6 ≤ 32 by decide) v
  case mode =>
    have hones : regBits .mode = (BitVec.allOnes 2).setWidth 32 := rfl
    apply BitVec.eq_of_getLsbD_eq
    intro k _
    rw [mode_getLsbD, hones, BitVec.getLsbD_and, getLsbD_setWidth_word (by decide), BitVec.getLsbD_allOnes]
    rcases k with _ | _ | k <;> simp
  case tblIndex => exact setWidth_setWidth_word (show 8 ≤ 32 by decide) v
  all_goals exact hall

/-- Settles O32: the register written by `readReg_writeReg_same`, every other one by `readReg_writeReg_other`. -/
theorem writeThenReadReturnsValue : Obligations.WriteThenReadReturnsValue := by
  intro s v entry hentry
  have hreg : entry.1 ∈ [Reg.width, .mode, .poly, .init, .xorout, .bufBase, .bufSize, .offset, .length, .tblIndex] :=
    List.mem_map_of_mem (f := Prod.fst) hentry
  have hbits : entry.2 = regBits entry.1 := by
    revert entry
    decide
  obtain ⟨t, ht, hsame⟩ := readReg_writeReg_same s v hreg
  have hcmd : entry.1 ≠ .cmd := fun h => by simp [h] at hreg
  have hstatus : entry.1 ≠ .status := fun h => by simp [h] at hreg
  refine ⟨t, ht, hbits ▸ hsame, fun other hother hne => ?_⟩
  have hdata : other ≠ .tblData := fun h => by simp [h] at hother
  exact readReg_writeReg_other hcmd hstatus hdata hne ht

end Sys2Proof.Machine

namespace Sys2Proof.Machine

/-! ## Who may change what, over all steps (10_state.md rules R22 to R35) -/

/-- R70: the fields determine the word. -/
theorem toWord_ofWord (w : Word) : (CommandWord.ofWord w).toWord = w := by
  apply BitVec.eq_of_getLsbD_eq
  intro k hk
  rw [CommandWord.toWord, CommandWord.ofWord, BitVec.getLsbD_append]
  by_cases h4 : k < 4
  · simp [h4]
  · simp [h4, show k - 4 < 28 by omega, show 4 + (k - 4) = k by omega]

/-- R71, R74: only a command's own word decodes to it. -/
theorem eq_encode_of_decode {v : Word} {i : Instr} (h : decode v = .command i) : v = encode i := by
  simp only [decode] at h
  split at h
  · cases h
  · next hrsvd =>
    have hword : v = CommandWord.toWord { rsvd := 0, opcode := (CommandWord.ofWord v).opcode } := by
      rw [← not_not.1 hrsvd]
      exact (toWord_ofWord v).symm
    have hop : (CommandWord.ofWord v).opcode = i.opcode := by
      split at h
      · cases h; assumption
      · split at h
        · cases h; assumption
        · split at h <;> cases h
          assumption
    rw [hword, hop]
    rfl

/-- What the read port changes: the request log, and the draw count when the byte is a free one. -/
theorem memRead_eq {s u : State} {a : Nat} {p : PortAnswer} (h : s.memRead a = (p, u)) :
    ∃ n, u = { s with portLog := s.portLog ++ [a], draws := n } := by
  obtain ⟨-, hm⟩ | ⟨-, hm⟩ | ⟨-, -, hm⟩ := memRead_cases s a <;> rw [h] at hm <;> cases hm
  · exact ⟨s.draws, rfl⟩
  · exact ⟨s.draws + 1, rfl⟩
  · exact ⟨s.draws, rfl⟩

/-- The parts of the state that commands and engine steps write, the host-written registers and the model's records apart,
are those of `s`. -/
structure State.SameBlock (t s : State) : Prop where
  latched : t.latched = s.latched
  status : t.status = s.status
  result : t.result = s.result
  engine : t.engine = s.engine
  table : t.table = s.table

/-- What a step does to these parts, by what happens in it: one operation on a state `u` that has them from `s`. -/
inductive State.Effect (s t : State) : Prop
  | quiet (ht : t.SameBlock s)
  | entry (hq : s.Engages .building) (hi : s.engine.idx.toNat < 255) (u : State) (hu : u.SameBlock s)
      (ht : t = u.writeEntry (s.engine.idx.setWidth 8))
  | built (hq : s.Engages .building) (hi : s.engine.idx.toNat = 255) (u : State) (hu : u.SameBlock s)
      (ht : t = (u.writeEntry (s.engine.idx.setWidth 8)).finishBuild)
  | folded (hq : s.Engages .computing) (hi : s.engine.i.toNat < s.engine.cLen.toNat) (d : Byte) (u : State)
      (hu : u.SameBlock s) (ht : t = u.foldByte d)
  | aborted (hq : s.Engages .computing) (hi : s.engine.i.toNat < s.engine.cLen.toNat) (u : State) (hu : u.SameBlock s)
      (ht : t = u.abortCompute)
  | completed (hq : s.Engages .computing) (hi : s.engine.cLen.toNat ≤ s.engine.i.toNat) (u : State) (hu : u.SameBlock s)
      (ht : t = u.finishCompute)
  | rejected (v : Word) (hw : s.WritesCmd v) (code : ErrCode) (hc : code ≠ .none) (u : State) (hu : u.SameBlock s)
      (ht : t = u.raiseError code)
  | acceptedBuild (hw : s.WritesCmd 1) (hq : s.engine.seq = .idle) (u : State) (hp : u.staging = s.staging)
      (hu : u.SameBlock s) (ht : t = u.acceptBuild)
  | acceptedCompute (hw : s.WritesCmd 2) (hq : s.engine.seq = .idle) (u : State) (hu : u.SameBlock s)
      (ht : t = u.acceptCompute)
  | status (v : Word) (hw : s.WritesReg .status v) (u : State) (hu : u.SameBlock s) (ht : t = u.writeStatus v)
  | stored (a : Word) (b : Byte) (hw : s.Stores a b) (u : State) (hu : u.SameBlock s) (ht : t = u.storeByte a b)
  | reset (hw : s.Resets) (u : State) (ht : t = u.blockReset)

theorem sameBlock_takeTurn (s : State) : s.takeTurn.SameBlock s := ⟨rfl, rfl, rfl, rfl, rfl⟩

theorem sameBlock_dropOp (s : State) : s.takeTurn.dropOp.SameBlock s := ⟨rfl, rfl, rfl, rfl, rfl⟩

theorem sameBlock_memRead {s u : State} {a : Nat} {p : PortAnswer} (h : s.takeTurn.memRead a = (p, u)) :
    u.SameBlock s := by
  obtain ⟨n, rfl⟩ := memRead_eq h
  exact ⟨rfl, rfl, rfl, rfl, rfl⟩

theorem command_effect {s t : State} {v : Word} (hw : s.WritesCmd v) (h : dispatch s.takeTurn.dropOp v = .next t) :
    s.Effect t := by
  have hu := sameBlock_dropOp s
  obtain ⟨-, hd⟩ | ⟨code, hc, hd⟩ | ⟨hv, hq, -, hd⟩ | ⟨hv, hq, -, -, hd⟩ := dispatch_cases s.takeTurn.dropOp v <;>
    rw [hd] at h <;> cases h
  · exact .quiet hu
  · exact .rejected v hw code hc _ hu rfl
  · obtain rfl := eq_encode_of_decode hv
    exact .acceptedBuild hw hq s.takeTurn.dropOp rfl hu rfl
  · obtain rfl := eq_encode_of_decode hv
    exact .acceptedCompute hw hq _ hu rfl

/-- Everything a step can do to the parts commands and engine steps write. -/
theorem step_effect {s t : State} (h : step s = .next t) : s.Effect t := by
  have hturn := sameBlock_takeTurn s
  have hop := sameBlock_dropOp s
  cases step_moves h with
  | engineIdle _ _ ht => exact .quiet (ht ▸ hturn)
  | entry hq hi ht => exact .entry hq hi _ hturn ht
  | built hq hi ht => exact .built hq hi _ hturn ht
  | folded hq hi _ d u hm ht => exact .folded hq hi d u (sameBlock_memRead hm) ht
  | aborted hq hi _ u hm ht => exact .aborted hq hi u (sameBlock_memRead hm) ht
  | completed hq hi ht => exact .completed hq hi _ hturn ht
  | hostIdle _ _ ht => exact .quiet (ht ▸ hturn)
  | read _ _ _ _ _ ht => exact .quiet (ht ▸ ⟨rfl, rfl, rfl, rfl, rfl⟩)
  | polled _ _ _ _ _ _ _ _ ht => obtain rfl | rfl := ht <;> exact .quiet ⟨rfl, rfl, rfl, rfl, rfl⟩
  | command v hw ht => exact command_effect hw ht
  | status v hw ht => exact .status v hw _ hop ht
  | staging _ _ _ _ _ _ ht => exact .quiet (ht ▸ ⟨rfl, rfl, rfl, rfl, rfl⟩)
  | args _ _ _ _ _ _ ht => exact .quiet (ht ▸ ⟨rfl, rfl, rfl, rfl, rfl⟩)
  | tblIndex _ _ _ _ _ _ ht => exact .quiet (ht ▸ ⟨rfl, rfl, rfl, rfl, rfl⟩)
  | ignored _ _ _ _ _ ht => exact .quiet (ht ▸ hop)
  | stored a b hw ht => exact .stored a b hw _ hop ht
  | reset hw ht => exact .reset hw _ ht

end Sys2Proof.Machine

namespace Sys2Proof.Machine

/-! ### The error fields (rule R33) -/

/-- The error fields after an error depend on those before only. -/
theorem raiseError_status_congr {s u : State} (h : u.status = s.status) (code : ErrCode) :
    (u.raiseError code).status = (s.raiseError code).status := by
  unfold State.raiseError
  rw [h]
  split <;> rfl

/-- R30: a STATUS write without bit 3 touches DONE only. -/
theorem writeStatus_status_of_keep (s : State) {v : Word} (hv : v.getLsbD 3 = false) :
    (s.writeStatus v).status = { s.status with done := s.status.done && !v.getLsbD 2 } := by
  rw [State.writeStatus, hv]
  cases v.getLsbD 2 <;> simp

/-- R30: a STATUS write with bit 3 clears the error fields together. -/
theorem writeStatus_status_of_clear (s : State) {v : Word} (hv : v.getLsbD 3 = true) :
    (s.writeStatus v).status =
      { s.status with done := s.status.done && !v.getLsbD 2, err := false, errCode := .none, errLost := false } := by
  rw [State.writeStatus, hv]
  cases v.getLsbD 2 <;> simp

theorem writeStatus_done (s : State) (v : Word) : (s.writeStatus v).status.done = (s.status.done && !v.getLsbD 2) := by
  cases hv : v.getLsbD 3 with
  | true => rw [writeStatus_status_of_clear s hv]
  | false => rw [writeStatus_status_of_keep s hv]

/-- Settles O17: of the effects of a step only an abort, a rejection, a STATUS write and reset touch the error fields. -/
theorem errorFieldsChangeOnlyByRule : Obligations.ErrorFieldsChangeOnlyByRule := by
  intro s t h
  cases step_effect h
  case quiet ht => exact .inl (by simp [ht.status])
  case aborted u hu ht => exact .inr (.inl ⟨.bus, nofun, by simp [ht, raiseError_status_congr hu.status]⟩)
  case rejected code hc u hu ht => exact .inr (.inl ⟨code, hc, by simp [ht, raiseError_status_congr hu.status]⟩)
  case status v hw u hu ht =>
    cases hv : v.getLsbD 3 with
    | true => exact .inr (.inr (.inl ⟨v, hw, hv, by simp [ht, writeStatus_status_of_clear u hv]⟩))
    | false => exact .inl (by simp [ht, writeStatus_status_of_keep u hv, hu.status])
  case reset hw u ht => exact .inr (.inr (.inr ⟨hw, by simp [ht, State.reset]⟩))
  all_goals next hu ht => exact .inl (by simp [ht, hu.status])

/-! ### The latched configuration and the table (rules R24, R28) -/

/-- Settles O35: of the effects of a step only an accepted BUILD and reset touch the latched configuration. -/
theorem latchedChangesOnlyAtBuild : Obligations.LatchedChangesOnlyAtBuild := by
  intro s t h
  cases step_effect h
  case quiet ht => exact .inl ht.latched
  case acceptedBuild hw hq u hp _ ht => exact .inr (.inl ⟨hw, hq, by simp [ht, hp, Staging.latch, Staging.w]⟩)
  case reset hw _ _ => exact .inr (.inr hw)
  all_goals next hu ht => exact .inl (by simp [ht, hu.latched])

/-- R108: writing the entry at IDX changes no other entry. -/
theorem entry_writeEntry_of_ne {s u : State} (hu : u.SameBlock s) (hi : s.engine.idx.toNat < 256) {b : Byte}
    (hne : (u.writeEntry (s.engine.idx.setWidth 8)).entry b ≠ s.entry b) :
    b.toNat = s.engine.idx.toNat ∧ (u.writeEntry (s.engine.idx.setWidth 8)).entry b = tableEntry s.latched b := by
  have hold : u.entry b = s.entry b := by simp only [State.entry, hu.table]
  rw [entry_writeEntry, hold, hu.latched] at hne ⊢
  by_cases hb : b = s.engine.idx.setWidth 8
  · rw [if_pos hb, ← hb]
    exact ⟨by rw [hb, idx_setWidth hi], rfl⟩
  · exact absurd (if_neg hb) hne

/-- R24: only a BUILD's steps and reset write the table. -/
theorem step_table {s t : State} (h : step s = .next t) :
    t.table = s.table ∨
      (s.Engages .building ∧ ∀ b : Byte, t.entry b ≠ s.entry b →
        b.toNat = s.engine.idx.toNat ∧ t.entry b = tableEntry s.latched b) ∨
      s.Resets := by
  cases step_effect h
  case quiet ht => exact .inl ht.table
  case entry hq hi u hu ht =>
    subst ht
    exact .inr (.inl ⟨hq, fun b hne => entry_writeEntry_of_ne hu (by omega) hne⟩)
  case built hq hi u hu ht =>
    subst ht
    exact .inr (.inl ⟨hq, fun b hne => entry_writeEntry_of_ne hu (by omega) hne⟩)
  case reset hw _ _ => exact .inr (.inr hw)
  all_goals next hu ht => exact .inl (by simp [ht, hu.table])

/-- Settles O36: while READY = 1 no BUILD is under way (R40), so that `step_table` leaves reset alone. -/
theorem tableChangesOnlyInBuild : Obligations.TableChangesOnlyInBuild := by
  intro s t h
  refine ⟨step_table h, fun hinv hr => ?_⟩
  obtain htable | ⟨⟨-, hq⟩, -⟩ | hreset := step_table h
  · exact .inl htable
  · exact absurd hq (hinv.r40.notBuilding hr)
  · exact .inr hreset

/-! ### READY and DONE (rules R31, R32) -/

/-- R108: a BUILD's step writes the entry at IDX, and the last one also finishes. -/
theorem step_building {s t : State} (hq : s.Engages .building) (h : step s = .next t) :
    (s.engine.idx.toNat < 255 ∧ t = s.takeTurn.writeEntry (s.engine.idx.setWidth 8)) ∨
      (s.engine.idx.toNat = 255 ∧ t = (s.takeTurn.writeEntry (s.engine.idx.setWidth 8)).finishBuild) := by
  rw [step_of_engages hq, engineStep, State.takeTurn_engine, hq.2] at h
  obtain ⟨-, hb⟩ | ⟨hi, hb⟩ | ⟨hi, hb⟩ := buildStep_cases s.takeTurn <;> simp only [hb] at h <;> cases h
  · exact .inl ⟨hi, rfl⟩
  · exact .inr ⟨hi, rfl⟩

/-- R127: a COMPUTE's step folds a byte or aborts while bytes are left, and completes when none is. -/
theorem step_computing {s t : State} (hq : s.Engages .computing) (h : step s = .next t) :
    (s.engine.i.toNat < s.engine.cLen.toNat ∧
      ∃ u : State, u.SameBlock s ∧ ((∃ d, t = u.foldByte d) ∨ t = u.abortCompute)) ∨
    (s.engine.cLen.toNat ≤ s.engine.i.toNat ∧ t = s.takeTurn.finishCompute) := by
  rw [step_of_engages hq, engineStep, State.takeTurn_engine, hq.2] at h
  obtain ⟨-, -, hb⟩ | ⟨hi, -, d, u, hm, hb⟩ | ⟨hi, -, u, hm, hb⟩ | ⟨hi, hb⟩ := computeStep_cases s.takeTurn <;>
    simp only [hb] at h <;> cases h
  · exact .inl ⟨hi, u, sameBlock_memRead hm, .inl ⟨d, rfl⟩⟩
  · exact .inl ⟨hi, u, sameBlock_memRead hm, .inr rfl⟩
  · exact .inr ⟨hi, rfl⟩

/-- R32: no command word changes DONE at its CMD write. -/
theorem dispatch_done {s t : State} {v : Word} (h : dispatch s v = .next t) : t.status.done = s.status.done := by
  obtain ⟨-, hd⟩ | ⟨code, -, hd⟩ | ⟨-, -, -, hd⟩ | ⟨-, -, -, -, hd⟩ := dispatch_cases s v <;> rw [hd] at h <;> cases h
  · rfl
  · exact State.raiseError_done s code
  · rfl
  · rfl

/-- A CMD write that is no accepted BUILD leaves READY, the latched configuration and the table. -/
theorem dispatch_keeps_or_accepts {s t : State} {v : Word} (h : dispatch s v = .next t) :
    (v = 1 ∧ s.engine.seq = .idle ∧ t.engine.seq = .building ∧ t.status.ready = false) ∨
      (t.status.ready = s.status.ready ∧ t.latched = s.latched ∧ t.table = s.table ∧
        (s.engine.seq = .idle → t.engine.seq ≠ .building)) := by
  obtain ⟨-, hd⟩ | ⟨code, -, hd⟩ | ⟨hv, hq, -, hd⟩ | ⟨-, -, -, -, hd⟩ := dispatch_cases s v <;> rw [hd] at h <;> cases h
  · exact .inr ⟨rfl, rfl, rfl, fun hq => by simp [hq]⟩
  · exact .inr ⟨by simp, by simp, by simp, fun hq => by simp [hq]⟩
  · exact .inl ⟨eq_encode_of_decode hv, hq, rfl, rfl⟩
  · exact .inr ⟨rfl, rfl, rfl, fun _ => by simp⟩

/-- R31: the steps that may change READY. -/
theorem step_ready {s t : State} (h : step s = .next t) :
    t.status.ready = s.status.ready ∨ (s.WritesCmd 1 ∧ s.engine.seq = .idle ∧ t.engine.seq = .building) ∨
      (s.Engages .building ∧ t.engine.seq = .idle) ∨ s.Resets := by
  cases step_effect h
  case quiet ht => exact .inl (by rw [ht.status])
  case built hq _ u _ ht => exact .inr (.inr (.inl ⟨hq, by simp [ht]⟩))
  case acceptedBuild hw hq u _ _ ht => exact .inr (.inl ⟨hw, hq, by simp [ht]⟩)
  case reset hw _ _ => exact .inr (.inr (.inr hw))
  all_goals next hu ht => exact .inl (by simp [ht, hu.status])

/-- Settles O37: the named steps run forward (`step_of_writesCmd`, `step_building`, `step_of_resets`), every other step by
`step_ready`. -/
theorem readyChangesOnlyByRule : Obligations.ReadyChangesOnlyByRule := by
  intro s t h
  refine ⟨fun hw hq hq' => ?_, fun hq hidle => ?_, fun hw => ?_, fun hne => (step_ready h).resolve_left hne,
    fun v hw hno => ?_⟩
  · rw [step_of_writesCmd hw] at h
    obtain ⟨-, -, -, hr⟩ | ⟨-, -, -, hn⟩ := dispatch_keeps_or_accepts h
    · exact hr
    · exact absurd hq' (hn hq)
  · obtain ⟨-, rfl⟩ | ⟨-, rfl⟩ := step_building hq h
    · rw [State.writeEntry_engine, State.takeTurn_engine, hq.2] at hidle
      cases hidle
    · rfl
  · rw [step_of_resets hw] at h
    cases h
    rfl
  · rw [step_of_writesCmd hw] at h
    obtain ⟨rfl, hq, hq', -⟩ | ⟨hready, hlatched, htable, -⟩ := dispatch_keeps_or_accepts h
    · simp only [State.dropOp_engine, State.takeTurn_engine] at hq
      simp [hq, hq'] at hno
    · exact ⟨hready, hlatched, htable⟩

/-- R32: the steps that may change DONE. -/
theorem step_done {s t : State} (h : step s = .next t) :
    t.status.done = s.status.done ∨ (s.Engages .building ∧ t.engine.seq = .idle) ∨ s.Engages .computing ∨
      (∃ v, s.WritesReg .status v) ∨ s.Resets := by
  cases step_effect h
  case quiet ht => exact .inl (by rw [ht.status])
  case built hq _ u _ ht => exact .inr (.inl ⟨hq, by simp [ht]⟩)
  case completed hq _ _ _ _ => exact .inr (.inr (.inl hq))
  case status v hw _ _ _ => exact .inr (.inr (.inr (.inl ⟨v, hw⟩)))
  case reset hw _ _ => exact .inr (.inr (.inr (.inr hw)))
  all_goals next hu ht => exact .inl (by simp [ht, hu.status])

/-- Settles O38: the named steps run forward (`step_building`, `step_computing`, `step_of_writesReg`), every other step by
`step_done`. -/
theorem doneChangesOnlyByRule : Obligations.DoneChangesOnlyByRule := by
  intro s t h
  refine ⟨fun hq hidle => ?_, fun hq hle => ?_, fun hq hlt => ?_, fun v hw => ?_, fun v hw => ?_,
    fun hne => (step_done h).resolve_left hne⟩
  · obtain ⟨-, rfl⟩ | ⟨-, rfl⟩ := step_building hq h
    · rw [State.writeEntry_engine, State.takeTurn_engine, hq.2] at hidle
      cases hidle
    · rfl
  · obtain ⟨hlt, -⟩ | ⟨-, rfl⟩ := step_computing hq h
    · omega
    · rfl
  · obtain ⟨-, u, hu, ⟨d, rfl⟩ | rfl⟩ | ⟨hle, -⟩ := step_computing hq h
    · rw [State.foldByte_status, hu.status]
    · rw [State.abortCompute_status, State.raiseError_done, hu.status]
    · omega
  · rw [step_of_writesCmd hw] at h
    rw [dispatch_done h]
    rfl
  · rw [step_of_writesReg hw] at h
    cases h
    exact writeStatus_done _ v

/-! ### RESULT (rule R35) -/

/-- Settles O39: the completing step leaves FINAL under the mask, whose width the invariant bounds while READY = 1. -/
theorem resultChangesOnlyAtCompletion : Obligations.ResultChangesOnlyAtCompletion := by
  intro s t hinv h
  refine ⟨fun hq hle => ?_, fun hw => ?_, fun hno hnr => ?_⟩
  · obtain ⟨hlt, -⟩ | ⟨-, rfl⟩ := step_computing hq h
    · omega
    · refine ⟨rfl, ?_, rfl⟩
      obtain ⟨-, hwidth, hmask⟩ := hinv.r40.sound (hinv.computing hq.2).ready
      rw [State.finishCompute_result, State.takeTurn_latched, final, hmask]
      exact toNat_and_maskOf_lt _ hwidth
  · rw [step_of_resets hw] at h
    cases h
    rfl
  · cases step_effect h
    case quiet ht => exact ht.result
    case completed hq hi _ _ _ => exact absurd ⟨hq, hi⟩ hno
    case reset hw _ _ => exact absurd hw hnr
    all_goals next hu ht => simp [ht, hu.result]

/-! ### The sequencer (rule R22) -/

theorem storeByte_seq (s : State) (a : Word) (b : Byte) : (s.storeByte a b).engine.seq = s.engine.seq := by
  simp only [State.storeByte]
  obtain h | ⟨-, h⟩ | ⟨-, j, h⟩ := race_cases s a.toNat <;> rw [h] <;> rfl

/-- R22: the sequencer moves by an accepted command, by a step of its own, or by reset. -/
theorem step_seq {s t : State} (h : step s = .next t) :
    t.engine.seq = s.engine.seq ∨
      (s.engine.seq = .idle ∧ ((s.WritesCmd 1 ∧ t.engine.seq = .building) ∨ (s.WritesCmd 2 ∧ t.engine.seq = .computing))) ∨
      (t.engine.seq = .idle ∧ (s.Engages s.engine.seq ∨ s.Resets)) := by
  cases step_effect h
  case quiet ht => exact .inl (by rw [ht.engine])
  case built hq _ u _ ht => exact .inr (.inr ⟨by simp [ht], .inl ⟨hq.1, rfl⟩⟩)
  case aborted hq _ u _ ht => exact .inr (.inr ⟨by simp [ht], .inl ⟨hq.1, rfl⟩⟩)
  case completed hq _ u _ ht => exact .inr (.inr ⟨by simp [ht], .inl ⟨hq.1, rfl⟩⟩)
  case acceptedBuild hw hq u _ _ ht => exact .inr (.inl ⟨hq, .inl ⟨hw, by simp [ht]⟩⟩)
  case acceptedCompute hw hq u _ ht => exact .inr (.inl ⟨hq, .inr ⟨hw, by simp [ht]⟩⟩)
  case reset hw u ht => exact .inr (.inr ⟨by simp [ht, State.reset], .inr hw⟩)
  case stored a b _ u hu ht => exact .inl (by rw [ht, storeByte_seq, hu.engine])
  all_goals next hu ht => exact .inl (by simp [ht, hu.engine])

/-- Settles O40: the three ways of `step_seq`, told apart by whether the engine was IDLE. -/
theorem onlyAcceptedCommandsLeaveIdle : Obligations.OnlyAcceptedCommandsLeaveIdle := by
  intro s t h
  obtain heq | ⟨hq, hcmd⟩ | hback := step_seq h
  · exact ⟨fun hq hne => absurd (heq.trans hq) hne, fun _ => .inl heq⟩
  · exact ⟨fun _ _ => hcmd, fun hne => absurd hq hne⟩
  · exact ⟨fun _ hne => absurd hback.1 hne, fun _ => .inr hback⟩

/-! ### Register writes while a command runs (rules R27, R29, R62, R188) -/

/-- Settles O41: the step is `writeReg`, which for no register but CMD touches any of these. -/
theorem registerWriteDoesNotReachRunningCommand : Obligations.RegisterWriteDoesNotReachRunningCommand := by
  intro s t reg v hreg hw h
  rw [step_of_writesReg hw] at h
  cases reg with
  | cmd => exact absurd rfl hreg
  | _ => cases h; simp

end Sys2Proof.Machine

namespace Sys2Proof.Machine

/-! ## The requests of a COMPUTE on the read port (20_memory.md rule R56) -/

theorem dispatch_portLog {s t : State} {v : Word} (h : dispatch s v = .next t) : t.portLog = s.portLog := by
  obtain ⟨-, hd⟩ | ⟨code, -, hd⟩ | ⟨-, -, -, hd⟩ | ⟨-, -, -, -, hd⟩ := dispatch_cases s v <;> rw [hd] at h <;> cases h
  · rfl
  · exact State.raiseError_portLog s code
  · exact State.acceptBuild_portLog s
  · exact State.acceptCompute_portLog s

theorem memRead_portLog {s u : State} {a : Nat} {p : PortAnswer} (h : s.memRead a = (p, u)) :
    u.portLog = s.portLog ++ [a] := by
  obtain ⟨n, rfl⟩ := memRead_eq h
  rfl

/-- The next step is a fold step: the engine's turn in a COMPUTE with a byte still to be read (rule R127). -/
def State.Folds (s : State) : Prop := s.Engages .computing ∧ s.engine.i.toNat < s.engine.cLen.toNat

theorem not_folds_of_host {s : State} (hn : s.nextAgent = .host) : ¬ s.Folds := by
  rintro ⟨⟨hn', -⟩, -⟩
  rw [hn] at hn'
  cases hn'

theorem not_folds_of_seq {s : State} (hq : s.engine.seq ≠ .computing) : ¬ s.Folds := fun h => hq h.1.2

/-- R56: a fold step requests its own address, and no other step requests anything. -/
theorem step_portLog {s t : State} (h : step s = .next t) :
    (s.Folds ∧ t.portLog = s.portLog ++ [s.engine.readAddress]) ∨ (¬ s.Folds ∧ t.portLog = s.portLog) := by
  cases step_moves h with
  | folded hq hi _ d u hm ht => exact .inl ⟨⟨hq, hi⟩, by simp [ht, memRead_portLog hm]⟩
  | aborted hq hi _ u hm ht => exact .inl ⟨⟨hq, hi⟩, by simp [ht, memRead_portLog hm]⟩
  | completed _ hi ht => exact .inr ⟨fun hf => absurd hf.2 (by omega), by simp [ht]⟩
  | engineIdle _ hq ht => exact .inr ⟨not_folds_of_seq (by simp [hq]), by simp [ht]⟩
  | entry hq _ ht => exact .inr ⟨not_folds_of_seq (by simp [hq.2]), by simp [ht]⟩
  | built hq _ ht => exact .inr ⟨not_folds_of_seq (by simp [hq.2]), by simp [ht]⟩
  | hostIdle hn _ ht => exact .inr ⟨not_folds_of_host hn, by simp [ht]⟩
  | read hn _ _ _ _ ht => exact .inr ⟨not_folds_of_host hn, by simp [ht]⟩
  | polled hn _ _ _ _ _ _ _ ht => exact .inr ⟨not_folds_of_host hn, by obtain rfl | rfl := ht <;> rfl⟩
  | command _ hw ht => exact .inr ⟨not_folds_of_host hw.1, by simp [dispatch_portLog ht]⟩
  | status _ hw ht => exact .inr ⟨not_folds_of_host hw.1, by simp [ht]⟩
  | staging _ hn _ _ _ _ ht => exact .inr ⟨not_folds_of_host hn, by simp [ht]⟩
  | args _ hn _ _ _ _ ht => exact .inr ⟨not_folds_of_host hn, by simp [ht]⟩
  | tblIndex _ hn _ _ _ _ ht => exact .inr ⟨not_folds_of_host hn, by simp [ht]⟩
  | ignored hn _ _ _ _ ht => exact .inr ⟨not_folds_of_host hn, by simp [ht]⟩
  | stored _ _ hw ht => exact .inr ⟨not_folds_of_host hw.1, by simp [ht]⟩
  | reset hw ht => exact .inr ⟨not_folds_of_host hw.1, by simp [ht]⟩

/-! ### A COMPUTE run fold by fold (rule R127) -/

/-- A command that leaves COMPUTING an engine that was IDLE was accepted. -/
theorem execCompute_accepted {s a : State} (hq : s.engine.seq = .idle) (h : exec .compute s = .next a)
    (ha : a.engine.seq = .computing) :
    s.status.ready = true ∧ s.args.outOfBounds = false ∧ a = s.acceptCompute := by
  rw [show exec .compute s = execCompute s from rfl] at h
  obtain ⟨hne, -⟩ | ⟨-, -, he⟩ | ⟨-, -, -, he⟩ | ⟨-, hr, ho, he⟩ := execCompute_cases s
  · exact absurd hq hne
  · rw [he] at h; cases h; simp [hq] at ha
  · rw [he] at h; cases h; simp [hq] at ha
  · rw [he] at h; cases h; exact ⟨hr, ho, rfl⟩

theorem outOfBounds_eq_false {p : Args} : p.outOfBounds = false ↔
    p.offset.toNat + p.length.toNat ≤ p.bufSize.toNat ∧ p.bufBase.toNat + p.bufSize.toNat ≤ 2 ^ 32 := by
  simp [Args.outOfBounds]

/-- R55: an address answers BusError exactly where the platform says so. -/
theorem memRead_eq_busError_iff {s u : State} {a : Nat} {p : PortAnswer} (h : s.memRead a = (p, u)) :
    p = .busError ↔ regionKindAt s.cfg a = .busError := by
  obtain ⟨hk, hm⟩ | ⟨hk, hm⟩ | ⟨hk, -, hm⟩ := memRead_cases s a <;> rw [h] at hm <;> cases hm
  · simp [hk]
  · obtain hk | ⟨hk, -⟩ := hk <;> simp [hk]
  · simp [hk]

section
variable {s : State} (hi : s.engine.i.toNat < s.engine.cLen.toNat) (ha : s.engine.readAddress < 2 ^ 32)
include hi ha

/-- R127: a fold step whose address answers a byte requests it and folds it. -/
theorem computeStep_byte (hbus : regionKindAt s.cfg s.engine.readAddress ≠ .busError) :
    ∃ d n, computeStep s =
      .next (State.foldByte { s with portLog := s.portLog ++ [s.engine.readAddress], draws := n } d) := by
  obtain ⟨-, hge, -⟩ | ⟨-, -, d, u, hm, hc⟩ | ⟨-, -, u, hm, -⟩ | ⟨hle, -⟩ := computeStep_cases s
  · omega
  · obtain ⟨n, rfl⟩ := memRead_eq hm
    exact ⟨d, n, hc⟩
  · exact absurd ((memRead_eq_busError_iff hm).1 rfl) hbus
  · omega

/-- R127, R163: a fold step whose address answers BusError requests it and aborts. -/
theorem computeStep_busError (hbus : regionKindAt s.cfg s.engine.readAddress = .busError) :
    computeStep s = .next (s.request s.engine.readAddress).abortCompute := by
  obtain ⟨-, hm⟩ | ⟨hk, -⟩ | ⟨hk, -⟩ := memRead_cases s s.engine.readAddress
  · rw [computeStep, if_pos hi, if_pos ha, hm]
  · simp [hbus] at hk
  · simp [hbus] at hk

end

/-- The running COMPUTE `a` after `n` folds that left the running register `crc`, the record `trace` and the draw count
`draws`. -/
def State.afterFolds (a : State) (n : Nat) (crc : Word) (trace : FoldTrace) (draws : Nat) : State :=
  { a with
    engine := { a.engine with crc := crc, i := BitVec.ofNat 32 n }
    trace := trace
    draws := draws
    portLog := a.portLog ++ (List.range n).map (a.engine.rangeStart + ·) }

theorem acceptCompute_eq_afterFolds (s : State) :
    s.acceptCompute = s.acceptCompute.afterFolds 0 (effInit s.latched) { folded := [], raced := [] } s.draws := by
  simp only [State.afterFolds, List.range_zero, List.map_nil, List.append_nil]
  rfl

theorem engineRun_succ {n : Nat} {s u : State} (h : engineRun n s = .next u) : engineRun (n + 1) s = engineStep u := by
  induction n generalizing s with
  | zero =>
    obtain rfl := Host.Outcome.next.inj h
    cases hs : engineStep s <;> simp only [engineRun, hs]
  | succ n ih =>
    rw [engineRun] at h ⊢
    cases hs : engineStep s with
    | next v => rw [hs] at h; exact ih h
    | fault f => simp [hs] at h
    | refused r => simp [hs] at h

section
variable {a : State} {n : Nat} {crc : Word} {trace : FoldTrace} {draws : Nat}

/-- Up to the end of the range, I counts the folds. -/
theorem afterFolds_count (hn : n ≤ a.engine.cLen.toNat) : (a.afterFolds n crc trace draws).engine.i.toNat = n := by
  have := a.engine.cLen.isLt
  exact Nat.mod_eq_of_lt (by omega)

theorem afterFolds_readAddress (hn : n ≤ a.engine.cLen.toNat) :
    (a.afterFolds n crc trace draws).engine.readAddress = a.engine.rangeStart + n := by
  rw [Engine.readAddress, afterFolds_count hn]
  rfl

/-- The requests after one more. -/
theorem portLog_afterFolds_append :
    (a.afterFolds n crc trace draws).portLog ++ [a.engine.rangeStart + n] =
      a.portLog ++ (List.range (n + 1)).map (a.engine.rangeStart + ·) := by
  simp [State.afterFolds, List.range_succ]

theorem foldByte_afterFolds (d : Byte) (draws' : Nat) :
    State.foldByte
        { a.afterFolds n crc trace draws with
          portLog := a.portLog ++ (List.range (n + 1)).map (a.engine.rangeStart + ·)
          draws := draws' } d =
      a.afterFolds (n + 1) (fold a.latched a.table crc d) { trace with folded := trace.folded ++ [d] } draws' := by
  simp only [State.foldByte, State.afterFolds, BitVec.ofNat_add]
  rfl

theorem engineStep_afterFolds (hq : a.engine.seq = .computing) :
    engineStep (a.afterFolds n crc trace draws) = computeStep (a.afterFolds n crc trace draws) := by
  rw [engineStep, show (a.afterFolds n crc trace draws).engine.seq = .computing from hq]

/-- R127: a fold step whose address answers a byte is one fold more. -/
theorem engineStep_afterFolds_byte (hq : a.engine.seq = .computing) (hn : n < a.engine.cLen.toNat)
    (hlt : a.engine.rangeStart + n < 2 ^ 32) (hbus : regionKindAt a.cfg (a.engine.rangeStart + n) ≠ .busError) :
    ∃ crc' trace' draws',
      engineStep (a.afterFolds n crc trace draws) = .next (a.afterFolds (n + 1) crc' trace' draws') := by
  have haddr := afterFolds_readAddress (crc := crc) (trace := trace) (draws := draws) hn.le
  obtain ⟨d, draws', hc⟩ := computeStep_byte (s := a.afterFolds n crc trace draws)
    (by rw [afterFolds_count hn.le]; exact hn) (by rw [haddr]; exact hlt) (by rw [haddr]; exact hbus)
  rw [haddr, portLog_afterFolds_append, foldByte_afterFolds] at hc
  exact ⟨_, _, _, (engineStep_afterFolds hq).trans hc⟩

/-- R127, R163: a fold step whose address answers BusError is the last, its request made. -/
theorem engineStep_afterFolds_busError (hq : a.engine.seq = .computing) (hn : n < a.engine.cLen.toNat)
    (hlt : a.engine.rangeStart + n < 2 ^ 32) (hbus : regionKindAt a.cfg (a.engine.rangeStart + n) = .busError) :
    engineStep (a.afterFolds n crc trace draws) =
      .next ((a.afterFolds n crc trace draws).request (a.engine.rangeStart + n)).abortCompute := by
  have haddr := afterFolds_readAddress (crc := crc) (trace := trace) (draws := draws) hn.le
  rw [engineStep_afterFolds hq, computeStep_busError (by rw [afterFolds_count hn.le]; exact hn)
    (by rw [haddr]; exact hlt) (by rw [haddr]; exact hbus), haddr]

/-- R127: with the whole range folded, the step completes. -/
theorem engineStep_afterFolds_length (hq : a.engine.seq = .computing) (hn : n = a.engine.cLen.toNat) :
    engineStep (a.afterFolds n crc trace draws) = .next (a.afterFolds n crc trace draws).finishCompute := by
  rw [engineStep_afterFolds hq, computeStep, if_neg]
  rw [afterFolds_count hn.le, hn]
  exact lt_irrefl _

end

/-- R56: the range of an accepted COMPUTE lies in the buffer address space. -/
theorem acceptCompute_address_lt {s : State} (ho : s.args.outOfBounds = false) {k : Nat} (hk : k < s.args.length.toNat) :
    s.acceptCompute.engine.rangeStart + k < 2 ^ 32 := by
  obtain ⟨hin, hspace⟩ := outOfBounds_eq_false.1 ho
  simp only [Engine.rangeStart, State.acceptCompute_engine]
  omega

/-- R56, R127: an accepted COMPUTE folds byte after byte as long as no address answers BusError. -/
theorem engineRun_acceptCompute {s : State} (ho : s.args.outOfBounds = false) {n : Nat} (hn : n ≤ s.args.length.toNat)
    (hbus : ∀ k, k < n → regionKindAt s.cfg (s.args.bufBase.toNat + s.args.offset.toNat + k) ≠ .busError) :
    ∃ crc trace draws, engineRun n s.acceptCompute = .next (s.acceptCompute.afterFolds n crc trace draws) := by
  induction n with
  | zero => exact ⟨_, _, _, congrArg _ (acceptCompute_eq_afterFolds s)⟩
  | succ n ih =>
    obtain ⟨crc, trace, draws, hrun⟩ := ih (by omega) fun k hk => hbus k (by omega)
    rw [engineRun_succ hrun]
    exact engineStep_afterFolds_byte rfl hn (acceptCompute_address_lt ho hn) (hbus n (by omega))

/-- Settles O23: `step_portLog` over all steps; a whole run is `engineRun_acceptCompute` followed by the completing or the
aborting step. -/
theorem computeRequestsExactlyItsRange : Obligations.ComputeRequestsExactlyItsRange := by
  refine ⟨fun s t h => ?_, fun s t h => ?_, fun s a hq h ha => ?_⟩
  · exact dispatch_portLog (v := encode .compute) (by rw [dispatch, decode_encode]; exact h)
  · obtain ⟨hf, hlog⟩ | ⟨hno, hlog⟩ := step_portLog h
    · exact ⟨fun _ _ => hlog, fun hno => absurd hf hno⟩
    · exact ⟨fun hq hi => absurd ⟨hq, hi⟩ hno, fun _ => hlog⟩
  · obtain ⟨-, ho, rfl⟩ := execCompute_accepted hq h ha
    obtain ⟨hin, hspace⟩ := outOfBounds_eq_false.1 ho
    refine ⟨⟨by omega, hspace, fun k hk => by omega⟩, fun hbus => ?_, fun k hk hbus hfirst => ?_⟩
    · obtain ⟨crc, trace, draws, hrun⟩ := engineRun_acceptCompute ho le_rfl hbus
      exact ⟨_, (engineRun_succ hrun).trans (engineStep_afterFolds_length rfl rfl), rfl, rfl⟩
    · obtain ⟨crc, trace, draws, hrun⟩ := engineRun_acceptCompute ho hk.le hfirst
      refine ⟨_, (engineRun_succ hrun).trans
        (engineStep_afterFolds_busError rfl hk (acceptCompute_address_lt ho hk) hbus), by simp, ?_⟩
      rw [State.abortCompute_portLog, State.request_portLog, portLog_afterFolds_append]
      rfl

end Sys2Proof.Machine

namespace Sys2Proof.Machine

/-! ## A racing write (20_memory.md rule R63; log 8) -/

@[simp] theorem storeByte_engine (s : State) (a : Word) (b : Byte) : (s.storeByte a b).engine = (s.race a.toNat).engine := rfl
@[simp] theorem storeByte_trace (s : State) (a : Word) (b : Byte) : (s.storeByte a b).trace = (s.race a.toNat).trace := rfl
@[simp] theorem storeByte_draws (s : State) (a : Word) (b : Byte) : (s.storeByte a b).draws = (s.race a.toNat).draws := rfl

section
variable {s : State} {a : Nat}

theorem race_of_folded (hin : s.engine.inRange a = true) (ha : a < s.engine.rangeStart + s.engine.i.toNat) :
    s.race a = s.redrawFolded (a - s.engine.rangeStart) := by
  rw [State.race, if_pos hin, if_pos ha]

theorem race_of_unfolded (hin : s.engine.inRange a = true) (ha : s.engine.rangeStart + s.engine.i.toNat ≤ a) :
    s.race a = s.markRaced a := by
  rw [State.race, if_pos hin, if_neg (not_lt.2 ha)]

theorem race_of_not_inRange (hin : ¬ s.engine.inRange a = true) : s.race a = s := by
  rw [State.race, if_neg hin]

/-- R63: a raced byte of plain memory is read as the next free value. -/
theorem memRead_of_raced (hk : regionKindAt s.cfg a = .memory) (hr : a ∈ s.trace.raced) :
    s.memRead a = (.byte (Config.freeByte s.draws), { s.request a with draws := s.draws + 1 }) := by
  obtain ⟨hk', -⟩ | ⟨-, hm⟩ | ⟨-, hr', -⟩ := memRead_cases s a
  · simp [hk] at hk'
  · exact hm
  · exact absurd hr hr'

end

/-- Settles O27: a write ahead of I marks its address raced, one behind I redraws the byte folded, and one outside the range does
neither. -/
theorem racingWriteFoldsFreeByte : Obligations.RacingWriteFoldsFreeByte := by
  intro s a b start
  refine ⟨fun hq hge hlt hk => ?_, fun hq hge hlt hlt' => ?_, fun hout => ?_⟩
  · have hin : s.engine.inRange a.toNat = true :=
      Engine.inRange_iff.2 ⟨hq, le_trans (Nat.le_add_right _ _) hge, hlt⟩
    have hrace := race_of_unfolded hin hge
    rw [memRead_of_raced (by rw [State.storeByte_cfg]; exact hk) (by simp [hrace])]
    simp [hrace]
  · have hrace := race_of_folded (Engine.inRange_iff.2 ⟨hq, hge, hlt'⟩) hlt
    rw [storeByte_engine, storeByte_draws, hrace]
    exact ⟨rfl, rfl⟩
  · rw [State.storeByte, race_of_not_inRange]
    rw [Engine.inRange_iff, Engine.rangeStart]
    rintro ⟨hq, hge, hlt⟩
    obtain hne | hlt' | hge' := hout
    · exact hne hq
    · omega
    · omega

end Sys2Proof.Machine

namespace Sys2Proof.Machine

/-! ## Register accesses the block defines, and those it does not (20_memory.md rule R53) -/

/-- R53, R75: the port answers exactly the well-formed accesses. -/
theorem accessRefusal_eq_none_iff {cfg : Config} {a : BusAccess} :
    accessRefusal cfg a.addr a.size = none ↔ a.wellFormed cfg = true := by
  simp only [BusAccess.wellFormed, Bool.and_eq_true, decide_eq_true_eq]
  constructor
  · intro h
    obtain ⟨hlo, hhi, hsize, hmod⟩ := accessRefusal_none h
    exact ⟨⟨⟨hsize, hlo⟩, hhi⟩, hmod⟩
  · rintro ⟨⟨⟨hsize, hlo⟩, hhi⟩, hmod⟩
    rw [accessRefusal, if_neg (by omega), if_neg (not_not.2 hsize), if_neg (not_not.2 hmod)]

theorem accessRefusal_of_not_wellFormed {cfg : Config} {a : BusAccess} (h : a.wellFormed cfg = false) :
    ∃ r, accessRefusal cfg a.addr a.size = some r := by
  rw [← Option.ne_none_iff_exists', ne_eq, accessRefusal_eq_none_iff, h]
  exact Bool.false_ne_true

/-- Every offset of the window that is a multiple of 4 can be read. -/
theorem wellFormed_read_base_add {cfg : Config} {off : BitVec 8} (h : off.toNat % 4 = 0) :
    BusAccess.wellFormed cfg { addr := cfg.blockBase + off.toNat, size := .word, kind := .read } = true := by
  have hlt : off.toNat < 256 := off.isLt
  simp [BusAccess.wellFormed, h, hlt]

/-- The host's turn on an access. -/
theorem step_of_access {s : State} {a : BusAccess} {rest : List HostOp} (hn : s.nextAgent = .host)
    (ho : s.host.ops = .access a :: rest) : step s = s.takeTurn.dropOp.busAccess a := by
  rw [step_of_host hn, hostStep, State.takeTurn_host, ho]

/-- Settles O33: the port defines the access and answers with the register's value before the turn. -/
theorem readReturnsRegisterAndChangesNothing : Obligations.ReadReturnsRegisterAndChangesNothing := by
  intro s off rest hn hoff ho
  refine ⟨?_, ?_, fun hge => ?_⟩
  · rw [step_of_access hn ho, State.busAccess, State.dropOp_cfg, State.takeTurn_cfg,
      accessRefusal_eq_none_iff.2 (wellFormed_read_base_add hoff)]
    simp only [State.portAccess, windowOffset_base_add, readReg_turn]
    rw [takeTurn_dropOp_eq ho]
    rfl
  · rintro rfl
    rfl
  · rw [(regAt_eq_reserved_iff hoff).2 hge]
    rfl

/-- Settles O34: the refusals of `accessRefusal` inside the window, the width checked first. -/
theorem undefinedAccessIsRefused : Obligations.UndefinedAccessIsRefused := by
  intro s a rest hn ho hlo hhi
  have hwin : ¬ (a.addr < s.cfg.blockBase ∨ s.cfg.blockBase + 256 ≤ a.addr) := by omega
  rw [step_of_access hn ho, State.busAccess, State.dropOp_cfg, State.takeTurn_cfg, accessRefusal, if_neg hwin]
  refine ⟨fun hsize => ?_, fun hsize hmod => ?_⟩
  · rw [if_pos hsize]
  · rw [if_neg (not_not.2 hsize), if_pos hmod]

/-! ### Whose turn it is (rule R61; log 3) -/

theorem nextAgent_of_cons {s : State} {g : Agent} {rest : List Agent} (h : s.host.schedule = g :: rest) :
    s.nextAgent = g := by
  rw [State.nextAgent, h]

theorem nextAgent_of_nil {s : State} (h : s.host.schedule = []) :
    s.nextAgent = if s.busy then .engine else .host := by
  rw [State.nextAgent, h]

theorem takeTurn_of_cons {s : State} {g : Agent} {rest : List Agent} (h : s.host.schedule = g :: rest) :
    s.takeTurn = { s with host := { s.host with schedule := rest } } := by
  rw [State.takeTurn, h, List.tail_cons]

theorem takeTurn_of_nil {s : State} (h : s.host.schedule = []) : s.takeTurn = s := by
  rw [State.takeTurn, h, List.tail_nil, ← h]

/-- Settles O7: `nextAgent` is the head of the schedule, and past its end the engine while it is busy. -/
theorem stepFollowsSchedule : Obligations.StepFollowsSchedule := by
  intro s
  have hengine : ∀ rest, s.host.schedule = .engine :: rest →
      step s = engineStep { s with host := { s.host with schedule := rest } } := by
    intro rest hs
    rw [step_of_engages ⟨nextAgent_of_cons hs, rfl⟩, takeTurn_of_cons hs]
  refine ⟨fun rest hs => ?_, hengine, fun rest hs hq => ?_, fun hs hq => ?_, fun hs hq => ?_⟩
  · rw [step_of_host (nextAgent_of_cons hs), takeTurn_of_cons hs]
  · rw [hengine rest hs, engineStep, hq]
  · have hn : s.nextAgent = .engine := by rw [nextAgent_of_nil hs, busy_eq_true.2 hq, if_pos rfl]
    rw [step_of_engages ⟨hn, rfl⟩, takeTurn_of_nil hs]
  · have hn : s.nextAgent = .host := by rw [nextAgent_of_nil hs, busy_eq_false.2 hq, if_neg Bool.false_ne_true]
    rw [step_of_host hn, takeTurn_of_nil hs]

/-! ### What stops a step (rules R53, R161) -/

/-- R166: no command word stops the machine at its CMD write. -/
theorem dispatch_next (s : State) (v : Word) : ∃ t, dispatch s v = .next t := by
  obtain ⟨-, h⟩ | ⟨_, -, h⟩ | ⟨-, -, -, h⟩ | ⟨-, -, -, -, h⟩ := dispatch_cases s v <;> exact ⟨_, h⟩

theorem portAccess_next (s : State) (off : BitVec 8) (kind : AccessKind) : ∃ t, s.portAccess off kind = .next t := by
  cases kind with
  | read => exact ⟨_, rfl⟩
  | write v =>
    rw [State.portAccess]
    cases regAt off with
    | cmd => exact dispatch_next s v
    | _ => exact ⟨_, rfl⟩

theorem busAccess_next {s : State} {a : BusAccess} (h : a.wellFormed s.cfg = true) : ∃ t, s.busAccess a = .next t := by
  rw [State.busAccess, accessRefusal_eq_none_iff.2 h]
  exact portAccess_next s _ _

theorem busAccess_refused {s : State} {a : BusAccess} (h : a.wellFormed s.cfg = false) :
    ∃ r, s.busAccess a = .refused r := by
  obtain ⟨r, hr⟩ := accessRefusal_of_not_wellFormed h
  exact ⟨r, by rw [State.busAccess, hr]⟩

/-- The read that a POLL makes. -/
def pollAccess (addr : Nat) : BusAccess := { addr := addr, size := .word, kind := .read }

theorem pollOnce_next {s : State} {addr : Nat} (mask value : Word) (h : (pollAccess addr).wellFormed s.cfg = true) :
    ∃ t, s.pollOnce addr mask value = .next t := by
  have hnone : accessRefusal s.cfg addr .word = none := accessRefusal_eq_none_iff.2 h
  simp only [State.pollOnce, hnone]
  split <;> exact ⟨_, rfl⟩

theorem pollOnce_refused {s : State} {addr : Nat} (mask value : Word) (h : (pollAccess addr).wellFormed s.cfg = false) :
    ∃ r, s.pollOnce addr mask value = .refused r := by
  obtain ⟨r, hr⟩ : ∃ r, accessRefusal s.cfg addr .word = some r := accessRefusal_of_not_wellFormed h
  exact ⟨r, by rw [State.pollOnce, hr]⟩

/-- The host's first pending operation is an access the block does not define, or a POLL that makes one. -/
def State.AccessUndefined (s : State) : Prop :=
  (∃ a rest, s.host.ops = .access a :: rest ∧ a.wellFormed s.cfg = false) ∨
    ∃ addr mask value rest, s.host.ops = .poll addr mask value :: rest ∧ (pollAccess addr).wellFormed s.cfg = false

/-- R53: the host's turn is refused at an undefined access. -/
theorem hostStep_refused {s : State} (h : s.AccessUndefined) : ∃ r, hostStep s = .refused r := by
  obtain ⟨a, rest, ho, hwf⟩ | ⟨addr, mask, value, rest, ho, hwf⟩ := h <;> rw [hostStep, ho]
  · exact busAccess_refused hwf
  · exact pollOnce_refused mask value hwf

/-- The host's turn goes on at every other operation. -/
theorem hostStep_next {s : State} (h : ¬ s.AccessUndefined) : ∃ t, hostStep s = .next t := by
  rw [hostStep]
  split
  · exact ⟨_, rfl⟩
  · next a rest ho =>
    exact busAccess_next (Bool.eq_true_of_not_eq_false fun hwf => h (.inl ⟨a, rest, ho, hwf⟩))
  · next addr mask value rest ho =>
    exact pollOnce_next mask value
      (Bool.eq_true_of_not_eq_false fun hwf => h (.inr ⟨addr, mask, value, rest, ho, hwf⟩))
  · exact ⟨_, rfl⟩
  · exact ⟨_, rfl⟩

/-- Under the invariant IDX names an entry and the read address lies in the buffer address space, so the engine goes on. -/
theorem engineStep_next {s : State} (h : s.Inv) : ∃ t, engineStep s = .next t := by
  rw [engineStep]
  cases hq : s.engine.seq with
  | idle => exact ⟨s, rfl⟩
  | building =>
    have hidx := (h.building hq).index
    obtain ⟨hge, -⟩ | ⟨-, hb⟩ | ⟨-, hb⟩ := buildStep_cases s
    · omega
    · exact ⟨_, hb⟩
    · exact ⟨_, hb⟩
  | computing =>
    have hrange := (h.computing hq).range
    obtain ⟨hi, hge, -⟩ | ⟨-, -, _, _, -, hc⟩ | ⟨-, -, _, -, hc⟩ | ⟨-, hc⟩ := computeStep_cases s
    · rw [Engine.readAddress] at hge
      omega
    · exact ⟨_, hc⟩
    · exact ⟨_, hc⟩
    · exact ⟨_, hc⟩

/-- R53: under the invariant a step is refused at the host's turn on an undefined access, and goes on otherwise. -/
theorem step_refused_or_next {s : State} (h : s.Inv) :
    ((s.nextAgent = .host ∧ s.AccessUndefined) ∧ ∃ r, step s = .refused r) ∨
      (¬ (s.nextAgent = .host ∧ s.AccessUndefined) ∧ ∃ t, step s = .next t) := by
  cases hn : s.nextAgent with
  | engine =>
    rw [step_of_engages ⟨hn, rfl⟩]
    exact .inr ⟨nofun, engineStep_next (Inv.takeTurn h)⟩
  | host =>
    rw [step_of_host hn]
    by_cases hu : s.AccessUndefined
    · exact .inl ⟨⟨rfl, hu⟩, hostStep_refused (s := s.takeTurn) hu⟩
    · exact .inr ⟨fun hno => hu hno.2, hostStep_next (s := s.takeTurn) hu⟩

/-- Settles O58: the two cases of `step_refused_or_next` exclude each other, and neither is a fault. -/
theorem onlyUndefinedAccessStops : Obligations.OnlyUndefinedAccessStops := by
  intro s h
  obtain ⟨hu, r, hs⟩ | ⟨hu, t, hs⟩ := step_refused_or_next h <;> simp only [hs]
  · exact ⟨nofun, fun _ => hu, fun _ => ⟨r, rfl⟩⟩
  · exact ⟨nofun, fun ⟨_, hr⟩ => (nomatch hr), fun hno => absurd hno hu⟩

end Sys2Proof.Machine

namespace Sys2Proof.Machine

/-! ## Words and commands (30_encoding.md rules R70 to R74) -/

/-- Settles O3: a command's word decodes to the command, and only that word does. -/
theorem decodeInvertsEncode : Obligations.DecodeInvertsEncode := by
  intro i w
  refine ⟨eq_encode_of_decode, ?_⟩
  rintro rfl
  exact decode_encode i

/-- R70: RSVD is 0 exactly in the words below 16. -/
theorem ofWord_rsvd_eq_zero_iff (w : Word) : (CommandWord.ofWord w).rsvd = 0 ↔ w.toNat < 16 := by
  have hlt := w.isLt
  rw [CommandWord.ofWord, ← BitVec.toNat_inj, BitVec.extractLsb'_toNat, Nat.shiftRight_eq_div_pow]
  simp only [BitVec.ofNat_eq_ofNat, BitVec.toNat_ofNat]
  omega

/-- R70: OPCODE is the word's last hexadecimal digit. -/
theorem ofWord_opcode_eq_iff (w : Word) (op : BitVec 4) :
    (CommandWord.ofWord w).opcode = op ↔ w.toNat % 16 = op.toNat := by
  rw [CommandWord.ofWord, ← BitVec.toNat_inj, BitVec.extractLsb'_toNat, Nat.shiftRight_zero]

/-- Settles O2: RSVD splits the words at 16, and below 16 the word is its OPCODE. -/
theorem decodeIsTheRulesTable : Obligations.DecodeIsTheRulesTable := by
  intro w
  rw [decode]
  by_cases hrsvd : w.toNat < 16
  · rw [if_neg (not_not.2 ((ofWord_rsvd_eq_zero_iff w).2 hrsvd)), if_neg (Nat.not_le.2 hrsvd)]
    simp only [ofWord_opcode_eq_iff, Nat.mod_eq_of_lt hrsvd, BitVec.toNat_ofNat, Nat.reducePow, Nat.reduceMod]
  · rw [if_pos (mt (ofWord_rsvd_eq_zero_iff w).1 hrsvd), if_pos (Nat.le_of_not_lt hrsvd)]

/-- Settles O1: each word is closed, and `decode` evaluates on it. -/
theorem commandWordsDecode : Obligations.CommandWordsDecode := by
  unfold Obligations.CommandWordsDecode
  decide

/-- R166: while the engine is busy no command is accepted. -/
theorem dispatch_of_busy {s : State} (hbusy : s.engine.seq ≠ .idle) (v : Word) :
    dispatch s v = .next s ∨ ∃ code, dispatch s v = .next (s.raiseError code) := by
  obtain ⟨-, hd⟩ | ⟨code, -, hd⟩ | ⟨-, hidle, -⟩ | ⟨-, hidle, -⟩ := dispatch_cases s v
  · exact .inl hd
  · exact .inr ⟨code, hd⟩
  · exact absurd hidle hbusy
  · exact absurd hidle hbusy

/-- R163: an error changes the error fields only. -/
theorem raiseError_eq (s : State) (code : ErrCode) :
    s.raiseError code =
      { s with
        status :=
          { s.status with
            err := (s.raiseError code).status.err, errCode := (s.raiseError code).status.errCode,
            errLost := (s.raiseError code).status.errLost } } := by
  unfold State.raiseError
  split <;> rfl

/-- R140: the word 0 is NOP, which changes nothing. -/
theorem dispatch_zero (s : State) : dispatch s 0 = .next s := rfl

/-- Settles O14: a busy engine accepts nothing, an error changes the error fields only, and 0 is NOP. -/
theorem commandWhileBusyDisturbsNothing : Obligations.CommandWhileBusyDisturbsNothing := by
  intro s v hbusy
  have hzero {t : State} (hd : dispatch s v = .next t) (hv : v = 0) : t = s := by
    rw [hv, dispatch_zero] at hd
    exact (Host.Outcome.next.inj hd).symm
  obtain hd | ⟨code, hd⟩ := dispatch_of_busy hbusy v
  · exact ⟨s, hd, rfl, fun _ => rfl⟩
  · exact ⟨s.raiseError code, hd, raiseError_eq s code, hzero hd⟩

end Sys2Proof.Machine

namespace Sys2Proof.Machine

@[simp] theorem Staging.latch_refin (p : Staging) : p.latch.refin = p.refin := rfl
@[simp] theorem Staging.latch_refout (p : Staging) : p.latch.refout = p.refout := rfl
@[simp] theorem Staging.latch_mask (p : Staging) : p.latch.mask = maskOf p.w := rfl

/-! ## REV8, MASK and CRC_STEP, bit by bit (40_table_generator.md rules R100, R101, R103) -/

theorem bitAt_shiftLeft_getLsbD (v : Word) (j n k : Nat) :
    (bitAt v j <<< n).getLsbD k = (decide (k = n) && decide (k < 32) && v.getLsbD j) := by
  obtain hlt | rfl | hgt := lt_trichotomy k n
  · simp [hlt, hlt.ne]
  · simp [bitAt]
  · simp [bitAt, hgt.ne', show k - n ≠ 0 by omega]

theorem rev8_getLsbD (v : Word) (k : Nat) : (rev8 v).getLsbD k = (decide (k < 8) && v.getLsbD (7 - k)) := by
  simp only [rev8, List.foldl, BitVec.getLsbD_or, bitAt_shiftLeft_getLsbD]
  by_cases hk : k < 8
  · interval_cases k <;> simp
  · have hne : ∀ j < 8, k ≠ j := fun j hj => by omega
    simp [hk, hne]

/-- REV8 depends on the low byte only. -/
theorem rev8_congr {x y : Word} (h : ∀ k < 8, x.getLsbD k = y.getLsbD k) : rev8 x = rev8 y := by
  refine BitVec.eq_of_getLsbD_eq fun k _ => ?_
  rw [rev8_getLsbD, rev8_getLsbD, h (7 - k) (by omega)]

theorem rev8_xor (x y : Word) : rev8 (x ^^^ y) = rev8 x ^^^ rev8 y := by
  refine BitVec.eq_of_getLsbD_eq fun k _ => ?_
  simp only [rev8_getLsbD, BitVec.getLsbD_xor, Bool.and_xor_distrib_left]

theorem rev8_lt (v : Word) : (rev8 v).toNat < 2 ^ 8 := by
  refine Nat.lt_pow_two_of_testBit _ fun k hk => ?_
  rw [← BitVec.getLsbD, rev8_getLsbD, decide_eq_false (by omega), Bool.false_and]

theorem maskOf_getLsbD (w k : Nat) : (maskOf w).getLsbD k = (decide (k < w) && decide (k < 32)) := by
  unfold maskOf
  split
  · rw [BitVec.getLsbD_ofNat, Nat.testBit_two_pow_sub_one, Bool.and_comm]
  · rw [show (0xFFFFFFFF : Word) = BitVec.allOnes 32 from rfl, BitVec.getLsbD_allOnes]
    by_cases hk : k < 32
    · simp [hk, show k < w by omega]
    · simp [hk]

theorem and_not_maskOf_eq_zero_iff {x : Word} {w : Nat} :
    x &&& ~~~ maskOf w = 0 ↔ ∀ k, w ≤ k → x.getLsbD k = false := by
  simp only [BitVec.eq_of_getLsbD_eq_iff, BitVec.getLsbD_and, BitVec.getLsbD_not, maskOf_getLsbD]
  refine ⟨fun h k hk => ?_, fun h k hk => ?_⟩
  · by_cases hlt : k < 32
    · simpa [hlt, Nat.not_lt.2 hk] using h k hlt
    · exact BitVec.getLsbD_of_ge _ _ (Nat.le_of_not_lt hlt)
  · by_cases hkw : k < w
    · simp [hk, hkw]
    · simp [h k (Nat.le_of_not_lt hkw)]

theorem maskOf_toNat {w : Nat} (hw : w ≤ 32) : (maskOf w).toNat = 2 ^ w - 1 := by
  obtain hlt | rfl := hw.lt_or_eq
  · rw [maskOf, if_pos hlt, BitVec.toNat_ofNat, Nat.mod_eq_of_lt]
    have := Nat.pow_lt_pow_right (a := 2) (by decide) hlt
    omega
  · rfl

theorem maskOf_eq_ofNat {w : Nat} (hw : w ≤ 32) : maskOf w = BitVec.ofNat 32 (2 ^ w - 1) := by
  rw [← maskOf_toNat hw, BitVec.ofNat_toNat, BitVec.setWidth_eq]

theorem and_shiftLeft_one_ne_zero_iff (r : Word) (n : Nat) : r &&& (1#32 <<< n) ≠ 0 ↔ r.getLsbD n = true := by
  rw [← BitVec.twoPow_eq, BitVec.and_twoPow]
  cases hbit : r.getLsbD n with
  | false => simp
  | true =>
    refine iff_of_true (fun hzero => ?_) rfl
    have hlow := congrArg (BitVec.getLsbD · n) hzero
    simp [BitVec.lt_of_getLsbD hbit] at hlow

/-- The test of the top bit, at every width: a place past bit 31 holds no bit. -/
theorem crcStep_eq (l : Latched) (r : Word) :
    crcStep l r = if r.getLsbD (l.w - 1) then r <<< 1 ^^^ l.poly else r <<< 1 := by
  simp only [crcStep, and_shiftLeft_one_ne_zero_iff]

/-- Settles O43: both sides bit by bit. -/
theorem rev8ReversesLowByte : Obligations.Rev8ReversesLowByte := by
  intro v
  refine ⟨rev8_getLsbD v, Nat.le_of_lt_succ (rev8_lt v), BitVec.eq_of_getLsbD_eq fun k hk => ?_⟩
  have hff : (0xFF : Word) = maskOf 8 := rfl
  rw [hff, BitVec.getLsbD_and, maskOf_getLsbD, rev8_getLsbD, rev8_getLsbD]
  by_cases hlt : k < 8
  · simp [hlt, hk, show 7 - k < 8 by omega, show 7 - (7 - k) = k by omega]
  · simp [hlt]

/-- Settles O44: the mask as a number and bit by bit. -/
theorem maskHasWidthOnes : Obligations.MaskHasWidthOnes := by
  intro w _ hw
  refine ⟨maskOf_toNat hw, fun k => ?_⟩
  rw [maskOf_getLsbD, ← Bool.decide_and, decide_eq_decide]
  omega

theorem shiftLeft_eq_ofNat (r : Word) (n : Nat) : r <<< n = BitVec.ofNat 32 (r.toNat * 2 ^ n) := by
  refine BitVec.eq_of_toNat_eq ?_
  rw [BitVec.toNat_shiftLeft, BitVec.toNat_ofNat, Nat.shiftLeft_eq]

/-- Settles O45: `crcStep_eq`, with the shift as a doubling. -/
theorem crcStepTestsTopBit : Obligations.CrcStepTestsTopBit := by
  intro l r _ _
  rw [crcStep_eq, shiftLeft_eq_ofNat, pow_one]

/-! ## TABLE_ENTRY (40_table_generator.md rules R102, R104) -/

theorem crcSteps_eq_iterate (l : Latched) (n : Nat) (r : Word) : crcSteps l n r = (crcStep l)^[n] r := by
  induction n generalizing r with
  | zero => rfl
  | succ n ih => rw [crcSteps, ih, Function.iterate_succ_apply]

/-- Settles O49: the seed as a number, and 8 steps as 8 iterations. -/
theorem tableEntryFollowsTheRule : Obligations.TableEntryFollowsTheRule := by
  intro l idx _ _ seed r
  have hseed : tableSeed l idx = seed := by
    simp only [tableSeed, seed, BitVec.ofNat_toNat]
    split
    · rfl
    · rw [Nat.zero_max]
      split
      · rw [shiftLeft_eq_ofNat, BitVec.toNat_setWidth, Nat.mod_eq_of_lt (by have := idx.isLt; omega)]
      · rw [Nat.sub_eq_zero_of_le (by omega), pow_zero, mul_one, BitVec.ofNat_toNat]
  rw [tableEntry, tableWork, crcSteps_eq_iterate, hseed]

theorem crcStep_xor (l : Latched) (x y : Word) : crcStep l (x ^^^ y) = crcStep l x ^^^ crcStep l y := by
  simp only [crcStep_eq, BitVec.getLsbD_xor, BitVec.shiftLeft_xor_distrib]
  have hcancel : x <<< 1 ^^^ y <<< 1 = x <<< 1 ^^^ l.poly ^^^ (y <<< 1 ^^^ l.poly) :=
    calc x <<< 1 ^^^ y <<< 1 = x <<< 1 ^^^ y <<< 1 ^^^ (l.poly ^^^ l.poly) := by rw [BitVec.xor_self, BitVec.xor_zero]
      _ = x <<< 1 ^^^ l.poly ^^^ (y <<< 1 ^^^ l.poly) := by ac_rfl
  cases x.getLsbD (l.w - 1) <;> cases y.getLsbD (l.w - 1)
  case true.true => exact hcancel
  all_goals simp only [Bool.false_xor, Bool.xor_false, if_true, Bool.false_eq_true, if_false] <;> ac_rfl

theorem crcSteps_xor (l : Latched) (n : Nat) (x y : Word) :
    crcSteps l n (x ^^^ y) = crcSteps l n x ^^^ crcSteps l n y := by
  induction n generalizing x y with
  | zero => rfl
  | succ n ih => rw [crcSteps, crcStep_xor, ih]; rfl

theorem tableSeed_xor (l : Latched) (a b : Byte) : tableSeed l (a ^^^ b) = tableSeed l a ^^^ tableSeed l b := by
  simp only [tableSeed, BitVec.setWidth_xor]
  split
  · exact rev8_xor _ _
  · split
    · exact BitVec.shiftLeft_xor_distrib _ _ _
    · rfl

theorem tableWork_xor (l : Latched) (a b : Byte) : tableWork l (a ^^^ b) = tableWork l a ^^^ tableWork l b := by
  simp only [tableWork, tableSeed_xor, crcSteps_xor]
  split
  · exact rev8_xor _ _
  · rfl

theorem and_xor_distrib_right (x y m : Word) : (x ^^^ y) &&& m = (x &&& m) ^^^ (y &&& m) :=
  BitVec.eq_of_getLsbD_eq fun k _ => by simp only [BitVec.getLsbD_and, BitVec.getLsbD_xor, Bool.and_xor_distrib_right]

/-- Settles O46: every stage of TABLE_ENTRY is linear, and 0 is 0 XOR 0. -/
theorem tableEntryIsLinear : Obligations.TableEntryIsLinear := by
  intro l
  have hxor (a b : Byte) : tableEntry l (a ^^^ b) = tableEntry l a ^^^ tableEntry l b := by
    rw [tableEntry, tableWork_xor, and_xor_distrib_right]; rfl
  refine ⟨?_, hxor⟩
  have := hxor 0 0
  rwa [BitVec.xor_self, BitVec.xor_self] at this

/-- While no bit reaches the top place of the width, CRC_STEP only shifts. -/
theorem crcSteps_eq_shiftLeft (l : Latched) {n : Nat} {r : Word} (hr : ∀ k, l.w ≤ k + n → r.getLsbD k = false) :
    crcSteps l n r = r <<< n := by
  induction n generalizing r with
  | zero => rw [crcSteps, BitVec.shiftLeft_zero]
  | succ n ih =>
    have hstep : crcStep l r = r <<< 1 := by rw [crcStep_eq, hr _ (by omega), if_neg Bool.false_ne_true]
    rw [crcSteps, hstep, ih, Nat.add_comm, BitVec.shiftLeft_add]
    intro k hk
    rw [BitVec.getLsbD_shiftLeft, hr (k - 1) (by omega), Bool.and_false]

/-- A reflected index lies in the low byte, so at widths from 16 on the 8 steps only shift it. -/
theorem crcSteps_tableSeed_of_refin {l : Latched} (hin : l.refin = true) (hw : 16 ≤ l.w) (b : Byte) :
    crcSteps l 8 (tableSeed l b) = rev8 (b.setWidth 32) <<< 8 := by
  rw [tableSeed, if_pos hin]
  refine crcSteps_eq_shiftLeft l fun k hk => ?_
  rw [rev8_getLsbD, decide_eq_false (by omega), Bool.false_and]

theorem rev8_shiftLeft_eight (v : Word) : rev8 (v <<< 8) = 0 := by
  refine BitVec.eq_of_getLsbD_eq fun k _ => ?_
  rw [rev8_getLsbD, BitVec.getLsbD_shiftLeft]
  simp [show 7 - k < 8 by omega]

section
variable {l : Latched} (hin : l.refin = true) (hout : l.refout = true) (hw : 16 ≤ l.w) (b : Byte)

include hout in
theorem tableEntry_lt_of_refout : (tableEntry l b).toNat < 2 ^ 8 := by
  rw [tableEntry, tableWork, if_pos hout, BitVec.toNat_and]
  exact Nat.and_le_left.trans_lt (rev8_lt _)

include hin hw in
theorem tableEntry_of_refin (hout : l.refout = false) : tableEntry l b = rev8 (b.setWidth 32) <<< 8 &&& l.mask := by
  rw [tableEntry, tableWork, if_neg (by simp [hout]), crcSteps_tableSeed_of_refin hin hw]

include hin hout hw in
theorem tableEntry_of_refin_refout : tableEntry l b = 0 := by
  rw [tableEntry, tableWork, if_pos hout, crcSteps_tableSeed_of_refin hin hw, rev8_shiftLeft_eight]
  exact BitVec.zero_and

end

/-- Settles O47: with REFOUT = 1 REV8 comes last before the mask; at widths from 16 on the working register is a shifted byte,
whose low byte is 0. -/
theorem reflectedTableClosedForms : Obligations.ReflectedTableClosedForms := by
  intro p b
  exact ⟨fun hout => Nat.le_of_lt_succ (tableEntry_lt_of_refout (l := p.latch) hout b),
    fun hin hout hw _ => tableEntry_of_refin (l := p.latch) hin hw b hout,
    fun hin hout hw _ => tableEntry_of_refin_refout (l := p.latch) hin hout hw b⟩

/-! ## Excess bits of the parameters (40_table_generator.md rule R106) -/

/-- Two words have the same bits below place `w`. -/
def AgreeBelow (w : Nat) (x y : Word) : Prop := ∀ k < w, x.getLsbD k = y.getLsbD k

theorem AgreeBelow.refl (w : Nat) (x : Word) : AgreeBelow w x x := fun _ _ => rfl

theorem agreeBelow_iff_and_maskOf {w : Nat} {x y : Word} : AgreeBelow w x y ↔ x &&& maskOf w = y &&& maskOf w := by
  simp only [BitVec.eq_of_getLsbD_eq_iff, BitVec.getLsbD_and, maskOf_getLsbD]
  refine ⟨fun h k hk => ?_, fun h k hk => ?_⟩
  · by_cases hkw : k < w
    · rw [h k hkw]
    · simp [hkw]
  · by_cases hlt : k < 32
    · simpa [hk, hlt] using h k hlt
    · rw [BitVec.getLsbD_of_ge _ _ (Nat.le_of_not_lt hlt), BitVec.getLsbD_of_ge _ _ (Nat.le_of_not_lt hlt)]

theorem AgreeBelow.rev8 {w : Nat} {x y : Word} (h : AgreeBelow w x y) (hw : 8 ≤ w) : rev8 x = rev8 y :=
  rev8_congr fun k hk => h k (by omega)

/-- CRC_STEP tests a bit within the width and moves bits up only. -/
theorem AgreeBelow.crcStep {l l' : Latched} {x y : Word} (h : AgreeBelow l.w x y) (hlw : l'.w = l.w) (hw : 1 ≤ l.w)
    (hpoly : AgreeBelow l.w l'.poly l.poly) : AgreeBelow l.w (crcStep l' x) (crcStep l y) := by
  intro k hk
  have hshift : (x <<< 1).getLsbD k = (y <<< 1).getLsbD k := by
    rw [BitVec.getLsbD_shiftLeft, BitVec.getLsbD_shiftLeft, h (k - 1) (by omega)]
  rw [crcStep_eq, crcStep_eq, hlw, h (l.w - 1) (by omega)]
  split
  · rw [BitVec.getLsbD_xor, BitVec.getLsbD_xor, hshift, hpoly k hk]
  · exact hshift

theorem AgreeBelow.crcSteps {l l' : Latched} {x y : Word} (h : AgreeBelow l.w x y) (hlw : l'.w = l.w) (hw : 1 ≤ l.w)
    (hpoly : AgreeBelow l.w l'.poly l.poly) (n : Nat) : AgreeBelow l.w (crcSteps l' n x) (crcSteps l n y) := by
  induction n generalizing x y with
  | zero => exact h
  | succ n ih => exact ih (h.crcStep hlw hw hpoly)

theorem tableAt_congr (t : Table) {x y : Word} (h : ∀ k < 8, x.getLsbD k = y.getLsbD k) : tableAt t x = tableAt t y := by
  have hbyte : x.setWidth 8 = y.setWidth 8 := BitVec.eq_of_getLsbD_eq fun k hk => by simp [hk, h k hk]
  simp only [tableAt, hbyte]

/-- FOLD_N reads the top byte of the width and moves the others up. -/
theorem AgreeBelow.foldN {l : Latched} {x y : Word} (h : AgreeBelow l.w x y) (hw : 8 ≤ l.w) (hmask : l.mask = maskOf l.w)
    (t : Table) (d : Byte) : foldN l t x d = foldN l t y d := by
  have hindex : tableAt t (x >>> (l.w - 8) ^^^ d.setWidth 32) = tableAt t (y >>> (l.w - 8) ^^^ d.setWidth 32) :=
    tableAt_congr t fun k hk => by
      rw [BitVec.getLsbD_xor, BitVec.getLsbD_xor, BitVec.getLsbD_ushiftRight, BitVec.getLsbD_ushiftRight,
        h (l.w - 8 + k) (by omega)]
  have hshift : AgreeBelow l.w (x <<< 8) (y <<< 8) := fun k hk => by
    rw [BitVec.getLsbD_shiftLeft, BitVec.getLsbD_shiftLeft, h (k - 8) (by omega)]
  have hmasked := agreeBelow_iff_and_maskOf.1 hshift
  rw [Machine.foldN, Machine.foldN, hindex, hmask, and_xor_distrib_right, and_xor_distrib_right, hmasked]

section
variable {p q : Staging} (hsize : q.hashSize = p.hashSize)
include hsize

theorem latch_mask_congr : q.latch.mask = p.latch.mask := by
  rw [Staging.latch_mask, Staging.latch_mask, Staging.w, Staging.w, hsize]

theorem latch_w_congr : q.latch.w = p.latch.w := congrArg BitVec.toNat hsize

/-- FINAL masks what it XORs: a result depends on the running register and XOROUT within the width. -/
theorem final_latch_congr {x y : Word} (h : AgreeBelow p.w x y) (hxorout : AgreeBelow p.w q.xorout p.xorout) :
    final q.latch x = final p.latch y := by
  have hsum : AgreeBelow p.w (x ^^^ q.xorout) (y ^^^ p.xorout) := fun k hk => by
    rw [BitVec.getLsbD_xor, BitVec.getLsbD_xor, h k hk, hxorout k hk]
  rw [final, final, latch_mask_congr hsize]
  exact agreeBelow_iff_and_maskOf.1 hsum

variable (hout : q.refout = p.refout)
include hout

/-- FOLD uses no parameter. -/
theorem fold_latch_congr (t : Table) : fold q.latch t = fold p.latch t := by
  funext crc d
  simp only [fold, foldR, Machine.foldN, latch_mask_congr hsize, latch_w_congr hsize]
  rw [Staging.latch_refout, hout, Staging.latch_refout]

theorem tableEntry_latch_congr (hin : q.refin = p.refin) (hw : 8 ≤ p.w) (hpoly : AgreeBelow p.w q.poly p.poly) (b : Byte) :
    tableEntry q.latch b = tableEntry p.latch b := by
  have hseed : tableSeed q.latch b = tableSeed p.latch b := by
    simp only [tableSeed, latch_w_congr hsize]
    rw [Staging.latch_refin, hin, Staging.latch_refin]
  have hsteps : AgreeBelow p.w (crcSteps q.latch 8 (tableSeed q.latch b)) (crcSteps p.latch 8 (tableSeed p.latch b)) := by
    rw [hseed]
    exact AgreeBelow.crcSteps (l := p.latch) (.refl _ _) (latch_w_congr hsize) (by rw [Staging.latch_w]; omega)
      hpoly 8
  simp only [tableEntry, latch_mask_congr hsize]
  cases hrefl : p.refout with
  | true => simp only [tableWork, Staging.latch_refout, hout, hrefl, if_true, hsteps.rev8 hw]
  | false =>
    simp only [tableWork, Staging.latch_refout, hout, hrefl, Bool.false_eq_true, if_false]
    exact agreeBelow_iff_and_maskOf.1 hsteps

/-- The running register agrees within the width, and REFOUT = 1 makes it equal. -/
theorem crcRun_latch_congr (hw : 8 ≤ p.w) (hinit : AgreeBelow p.w q.init p.init) (t : Table) (bytes : List Byte) :
    AgreeBelow p.w (crcRun q.latch t bytes) (crcRun p.latch t bytes) := by
  simp only [crcRun, fold_latch_congr hsize hout]
  cases hrefl : p.refout with
  | true =>
    have heff : effInit q.latch = effInit p.latch := by
      simp only [effInit, Staging.latch_refout, hout, hrefl, if_true]
      exact hinit.rev8 hw
    rw [heff]
    exact .refl _ _
  | false =>
    have heff : AgreeBelow p.w (effInit q.latch) (effInit p.latch) := by
      simp only [effInit, Staging.latch_refout, hout, hrefl, Bool.false_eq_true, if_false]
      exact hinit
    cases bytes with
    | nil => exact heff
    | cons d bytes =>
      have hfirst : fold p.latch t (effInit q.latch) d = fold p.latch t (effInit p.latch) d := by
        simp only [fold, Staging.latch_refout, hrefl, Bool.false_eq_true, if_false]
        exact AgreeBelow.foldN (l := p.latch) heff hw p.latch_mask t d
      rw [List.foldl_cons, List.foldl_cons, hfirst]
      exact .refl _ _

end

/-- Settles O48: parameters that agree within a width of 8 or more give equal tables and running registers that agree within the
width; XOROUT enters at FINAL alone. -/
theorem excessBitsHaveNoEffect : Obligations.ExcessBitsHaveNoEffect := by
  intro p q hsize hin hout _ _
  refine ⟨fun hw hpoly hinit hxorout => ?_, fun hpoly hinit hxorout bytes => ?_⟩
  · have htable : builtTable q.latch = builtTable p.latch := by
      simp only [builtTable, tableEntry_latch_congr hsize hout hin hw (agreeBelow_iff_and_maskOf.2 hpoly)]
    refine ⟨htable, fun bytes => ?_⟩
    rw [htable]
    exact final_latch_congr hsize (crcRun_latch_congr hsize hout hw (agreeBelow_iff_and_maskOf.2 hinit) _ bytes)
      (agreeBelow_iff_and_maskOf.2 hxorout)
  · have hrun : crcRun q.latch (builtTable q.latch) bytes = crcRun p.latch (builtTable p.latch) bytes := by
      have hq : q = { p with xorout := q.xorout } := by rw [← hsize, ← hin, ← hout, ← hpoly, ← hinit]
      rw [hq]
      rfl
    rw [crcOf, crcOf, hrun]
    exact final_latch_congr hsize (.refl _ _) (agreeBelow_iff_and_maskOf.2 hxorout)

end Sys2Proof.Machine

namespace Sys2Proof.Machine

/-! ## BUILD at the CMD write (40_table_generator.md rules R105, R107) -/

/-- R105: the two checks of BUILD pass. -/
theorem configError_eq_false_iff {s : State} : s.configError = false ↔
    1 ≤ s.staging.w ∧ s.staging.w ≤ 32 ∧
      (s.cfg.paramCheck = .reject →
        (s.staging.poly ||| s.staging.init ||| s.staging.xorout) &&& ~~~ maskOf s.staging.w = 0) := by
  simp only [State.configError, Staging.badWidth, Staging.excessBits, Bool.or_eq_false_iff, Bool.and_eq_false_imp,
    decide_eq_true_eq, decide_eq_false_iff_not, not_not, not_lt, and_assoc]

/-- R105: no parameter has a bit at or above the width. -/
theorem excess_eq_zero_iff (p : Staging) : (p.poly ||| p.init ||| p.xorout) &&& ~~~ maskOf p.w = 0 ↔
    ∀ k, p.w ≤ k → p.poly.getLsbD k = false ∧ p.init.getLsbD k = false ∧ p.xorout.getLsbD k = false := by
  have hbits (k : Nat) : (p.poly ||| p.init ||| p.xorout).getLsbD k = false ↔
      p.poly.getLsbD k = false ∧ p.init.getLsbD k = false ∧ p.xorout.getLsbD k = false := by
    simp only [BitVec.getLsbD_or, Bool.or_eq_false_iff, and_assoc]
  simp only [and_not_maskOf_eq_zero_iff, hbits]

/-- R107: an IDLE engine accepts a BUILD that passes the checks. -/
theorem exec_build_of_valid {s : State} (hq : s.engine.seq = .idle) (hc : s.configError = false) :
    exec .build s = .next s.acceptBuild := by
  obtain ⟨hne, -⟩ | ⟨-, hc', -⟩ | ⟨-, -, he⟩ := execBuild_cases s
  · exact absurd hq hne
  · simp [hc] at hc'
  · exact he

/-- R105: an IDLE engine rejects a BUILD that fails them. -/
theorem exec_build_of_invalid {s : State} (hq : s.engine.seq = .idle) (hc : s.configError = true) :
    exec .build s = .next (s.raiseError .config) := by
  obtain ⟨hne, -⟩ | ⟨-, -, he⟩ | ⟨-, hc', -⟩ := execBuild_cases s
  · exact absurd hq hne
  · exact he
  · simp [hc] at hc'

/-- Settles O11: the checks pass, and the latched mask is `2 ^ w - 1` by `maskOf_eq_ofNat`. -/
theorem buildAcceptanceLatches : Obligations.BuildAcceptanceLatches := by
  intro s hq hpos hle hcheck
  have hmask : maskOf s.staging.w = BitVec.ofNat 32 (2 ^ s.staging.hashSize.toNat - 1) := maskOf_eq_ofNat hle
  have hvalid := configError_eq_false_iff.2 ⟨hpos, hle, fun hr => (excess_eq_zero_iff _).2 (hcheck hr)⟩
  rw [exec_build_of_valid hq hvalid, State.acceptBuild, Staging.latch, hmask]

/-- Settles O12: what the statement calls excess is what the check of rule R105 tests. -/
theorem buildRejectsBadParameters : Obligations.BuildRejectsBadParameters := by
  intro s hq w excess
  have hexcess : ¬ excess ↔ (s.staging.poly ||| s.staging.init ||| s.staging.xorout) &&& ~~~ maskOf s.staging.w = 0 := by
    simp only [excess_eq_zero_iff, excess, w, not_exists, not_and, not_or, Bool.not_eq_true]
    rfl
  refine ⟨fun hbad => exec_build_of_invalid hq (Bool.eq_true_of_not_eq_false fun hvalid => ?_), fun hpos hle hcheck => ?_⟩
  · obtain ⟨hpos, hle, hcheck⟩ := configError_eq_false_iff.1 hvalid
    obtain hlow | hhigh | ⟨hr, hex⟩ := hbad
    · exact hlow.not_ge hpos
    · exact hhigh.not_ge hle
    · exact hexcess.2 (hcheck hr) hex
  · have hvalid : s.configError = false := configError_eq_false_iff.2 ⟨hpos, hle, fun hr => hexcess.1 ?_⟩
    · exact ⟨_, exec_build_of_valid hq hvalid, rfl, rfl, rfl, rfl⟩
    · obtain ht | hno := hcheck
      · rw [ht] at hr
        cases hr
      · exact hno

/-! ## The BUILD engine step (40_table_generator.md rule R108) -/

theorem engineStep_of_building {s : State} (hq : s.engine.seq = .building) : engineStep s = buildStep s := by
  rw [engineStep, hq]

theorem writeEntry_idx_eq {s : State} (h : s.engine.idx.toNat < 256) :
    s.writeEntry (s.engine.idx.setWidth 8) =
      { s with
        table := s.table.set s.engine.idx.toNat (tableEntry s.latched (s.engine.idx.setWidth 8)) h
        engine :=
          { s.engine with r := tableWork s.latched (s.engine.idx.setWidth 8), idx := s.engine.idx + 1 } } := by
  simp only [State.writeEntry, idx_setWidth h]
  rfl

/-- Settles O18: the two ways of `buildStep` with IDX below 256, told apart by IDX = 255. -/
theorem buildStepWritesOneEntry : Obligations.BuildStepWritesOneEntry := by
  intro s hq h
  rw [engineStep_of_building hq]
  obtain ⟨hge, -⟩ | ⟨hi, hb⟩ | ⟨hi, hb⟩ := buildStep_cases s
  · omega
  · have hne : s.engine.idx ≠ 255 := fun he => by simp [he] at hi
    refine ⟨_, hb, ?_⟩
    rw [writeEntry_idx_eq h, if_neg hne, if_neg hne, ← hq]
  · have he : s.engine.idx = 255 := BitVec.eq_of_toNat_eq hi
    refine ⟨_, hb, ?_⟩
    rw [writeEntry_idx_eq h, if_pos he, if_pos he]
    rfl

/-! ## A BUILD run entry by entry (40_table_generator.md rule R108) -/

/-- `u` is the running BUILD `a` after `n` entries more. -/
structure State.AfterEntries (a : State) (n : Nat) (u : State) : Prop where
  frame : u = { a with table := u.table, engine := { a.engine with r := u.engine.r, idx := BitVec.ofNat 9 n } }
  entries : ∀ b : Byte, u.entry b = if b.toNat < n then tableEntry a.latched b else a.entry b

section
variable {a u : State} {n : Nat}

theorem State.AfterEntries.start (hi : a.engine.idx = 0) : a.AfterEntries 0 a := by
  refine ⟨?_, fun b => by rw [if_neg (Nat.not_lt_zero _)]⟩
  rw [← BitVec.ofNat_eq_ofNat, ← hi]

theorem State.AfterEntries.idx (h : a.AfterEntries n u) (hn : n < 512) : u.engine.idx.toNat = n := by
  rw [h.frame]
  exact Nat.mod_eq_of_lt hn

theorem State.AfterEntries.seq (h : a.AfterEntries n u) : u.engine.seq = a.engine.seq := by rw [h.frame]

theorem State.AfterEntries.engineStep (h : a.AfterEntries n u) (hq : a.engine.seq = .building) :
    engineStep u = buildStep u := engineStep_of_building (h.seq.trans hq)

theorem State.AfterEntries.status (h : a.AfterEntries n u) : u.status = a.status := by rw [h.frame]

theorem State.AfterEntries.latched (h : a.AfterEntries n u) : u.latched = a.latched := by rw [h.frame]

/-- R108: the entry at IDX is the next. -/
theorem State.AfterEntries.writeEntry (h : a.AfterEntries n u) (hn : n < 256) :
    a.AfterEntries (n + 1) (u.writeEntry (u.engine.idx.setWidth 8)) := by
  have hidx := h.idx (by omega)
  refine ⟨?_, fun b => ?_⟩
  · rw [h.frame]
    simp only [State.writeEntry, BitVec.ofNat_add]
    rfl
  · have hb : b = u.engine.idx.setWidth 8 ↔ b.toNat = n := by
      rw [← BitVec.toNat_inj, idx_setWidth (by omega), hidx]
    rw [entry_writeEntry, h.entries, h.latched]
    obtain hlt | heq | hgt := lt_trichotomy b.toNat n
    · rw [if_neg (mt hb.1 hlt.ne), if_pos hlt, if_pos (by omega)]
    · rw [if_pos (hb.2 heq), ← hb.2 heq, if_pos (by omega)]
    · rw [if_neg (mt hb.1 hgt.ne'), if_neg hgt.not_gt, if_neg (by omega)]

/-- R108: up to entry 255 an accepted BUILD makes an entry a step. -/
theorem engineRun_building (hq : a.engine.seq = .building) (hi : a.engine.idx = 0) (hn : n < 256) :
    ∃ u, engineRun n a = .next u ∧ a.AfterEntries n u := by
  induction n with
  | zero => exact ⟨a, rfl, .start hi⟩
  | succ n ih =>
    obtain ⟨u, hrun, hu⟩ := ih (by omega)
    have hidx := hu.idx (by omega)
    obtain ⟨hge, -⟩ | ⟨-, hb⟩ | ⟨hlast, -⟩ := buildStep_cases u
    · omega
    · exact ⟨_, ((engineRun_succ hrun).trans (hu.engineStep hq)).trans hb, hu.writeEntry (by omega)⟩
    · omega

/-- R108: the step of entry 255 ends it. -/
theorem engineRun_building_all (hq : a.engine.seq = .building) (hi : a.engine.idx = 0) :
    ∃ u, engineRun 256 a = .next u.finishBuild ∧ a.AfterEntries 256 u := by
  obtain ⟨u, hrun, hu⟩ := engineRun_building hq hi (show 255 < 256 by decide)
  have hidx := hu.idx (by decide)
  obtain ⟨hge, -⟩ | ⟨hlt, -⟩ | ⟨-, hb⟩ := buildStep_cases u
  · omega
  · omega
  · exact ⟨_, ((engineRun_succ hrun).trans (hu.engineStep hq)).trans hb, hu.writeEntry (by decide)⟩

theorem State.AfterEntries.entry_of_all (h : a.AfterEntries 256 u) (b : Byte) : u.entry b = tableEntry a.latched b := by
  rw [h.entries, if_pos b.isLt]

end

/-- Settles O19: `engineRun_building` up to entry 255, `engineRun_building_all` for the whole BUILD. -/
theorem buildRunsToCompletion : Obligations.BuildRunsToCompletion := by
  intro s hq hpos hle hcheck
  have hexec := exec_build_of_valid hq (configError_eq_false_iff.2 ⟨hpos, hle, hcheck⟩)
  obtain ⟨t, hrun, ht⟩ := engineRun_building_all (a := s.acceptBuild) rfl rfl
  refine ⟨_, t.finishBuild, hexec, fun n hn => ?_, hrun, ht.entry_of_all, ?_⟩
  · obtain ⟨u, hrun, hu⟩ := engineRun_building (a := s.acceptBuild) rfl rfl hn
    refine ⟨u, hrun, hu.seq, hu.idx (by omega), hu.status, rfl, fun b hb => ?_, fun b hb => ?_⟩
    · rw [hu.entries, if_pos hb]
    · rw [hu.entries, if_neg (Nat.not_lt.2 hb)]
      rfl
  · rw [ht.frame]
    rfl

/-- The table and the latched configuration that a BUILD leaves depend on the staging registers alone. -/
theorem engineRun_acceptBuild (s : State) :
    ∃ t, engineRun 256 s.acceptBuild = .next t ∧ t.engine.seq = .idle ∧ t.table = builtTable s.staging.latch ∧
      t.latched = s.staging.latch := by
  obtain ⟨u, hrun, hu⟩ := engineRun_building_all (a := s.acceptBuild) rfl rfl
  refine ⟨_, hrun, rfl, table_ext fun b => ?_, hu.latched⟩
  exact (hu.entry_of_all b).trans (entry_builtTable (s := { s with table := builtTable s.staging.latch }) rfl b).symm

/-- Settles O20: both runs leave what `engineRun_acceptBuild` says, of equal staging registers. -/
theorem buildTableIsStable : Obligations.BuildTableIsStable := by
  intro s s' hq hq' hstaging hc hc'
  obtain ⟨t, hrun, hidle, htable, hlatched⟩ := engineRun_acceptBuild s
  obtain ⟨t', hrun', hidle', htable', hlatched'⟩ := engineRun_acceptBuild s'
  refine ⟨_, _, t, t', exec_build_of_valid hq hc, exec_build_of_valid hq' hc', hrun, hrun', hidle, hidle', ?_, ?_⟩
  · rw [htable, htable', hstaging]
  · rw [hlatched, hlatched', hstaging]

end Sys2Proof.Machine

namespace Sys2Proof.Machine

/-! ## COMPUTE at the CMD write (41_fold_engine.md rule R126) -/

/-- R126: an IDLE and READY engine accepts a COMPUTE whose range passes the checks. -/
theorem exec_compute_of_valid {s : State} (hq : s.engine.seq = .idle) (hr : s.status.ready = true)
    (ho : s.args.outOfBounds = false) : exec .compute s = .next s.acceptCompute := by
  obtain ⟨hne, -⟩ | ⟨-, hr', -⟩ | ⟨-, -, ho', -⟩ | ⟨-, -, -, he⟩ := execCompute_cases s
  · exact absurd hq hne
  · simp [hr] at hr'
  · simp [ho] at ho'
  · exact he

/-- R166: a COMPUTE is accepted or records one error. -/
theorem exec_compute_moves {s t : State} (h : exec .compute s = .next t) :
    t = s.acceptCompute ∨ ∃ code, code ≠ .none ∧ t = s.raiseError code := by
  rw [show exec .compute s = execCompute s from rfl] at h
  obtain ⟨-, he⟩ | ⟨-, -, he⟩ | ⟨-, -, -, he⟩ | ⟨-, -, -, he⟩ := execCompute_cases s <;> rw [he] at h <;> cases h
  · exact .inr ⟨.busy, nofun, rfl⟩
  · exact .inr ⟨.notReady, nofun, rfl⟩
  · exact .inr ⟨.bounds, nofun, rfl⟩
  · exact .inl rfl

/-- Settles O13: the checks pass, and what the statement writes out is `State.acceptCompute`. -/
theorem computeAcceptanceCaptures : Obligations.ComputeAcceptanceCaptures := by
  intro s hq hr hin hspace
  exact exec_compute_of_valid hq hr (outOfBounds_eq_false.2 ⟨hin, hspace⟩)

/-! ## The COMPUTE engine step (41_fold_engine.md rule R127) -/

theorem engineStep_of_computing {s : State} (hq : s.engine.seq = .computing) : engineStep s = computeStep s := by
  rw [engineStep, hq]

/-- R55: plain memory that no one raced answers the byte it holds. -/
theorem memRead_of_memory {s : State} {a : Nat} (hk : regionKindAt s.cfg a = .memory) (hr : a ∉ s.trace.raced) :
    s.memRead a = (.byte (Memory.read s.mem a), s.request a) := by
  obtain ⟨hk', -⟩ | ⟨hk' | ⟨-, hr'⟩, -⟩ | ⟨-, -, hm⟩ := memRead_cases s a
  · simp [hk] at hk'
  · simp [hk] at hk'
  · exact absurd hr' hr
  · exact hm

/-- R57: a device answers the next free value (log 7). -/
theorem memRead_of_device {s : State} {a : Nat} (hk : regionKindAt s.cfg a = .device) :
    s.memRead a = (.byte (Config.freeByte s.draws), { s.request a with draws := s.draws + 1 }) := by
  obtain ⟨hk', -⟩ | ⟨-, hm⟩ | ⟨hk', -⟩ := memRead_cases s a
  · simp [hk] at hk'
  · exact hm
  · simp [hk] at hk'

/-- R163: an abort records BUS and leaves the engine IDLE; the error fields depend on those before only. -/
theorem abortCompute_eq {s u : State} (h : u.status = s.status) :
    u.abortCompute = { u with status := (s.raiseError .bus).status, engine := { u.engine with seq := .idle } } := by
  rw [State.abortCompute, ← raiseError_status_congr h, raiseError_eq]

section
variable {s : State} (hi : s.engine.i.toNat < s.engine.cLen.toNat) (ha : s.engine.readAddress < 2 ^ 32)
include hi ha

theorem computeStep_of_memRead {d : Byte} {u : State} (hm : s.memRead s.engine.readAddress = (.byte d, u)) :
    computeStep s = .next (u.foldByte d) := by
  rw [computeStep, if_pos hi, if_pos ha, hm]

/-- R127: `computeStep_byte` with the byte named where plain memory answers. -/
theorem computeStep_byte_eq (hbus : regionKindAt s.cfg s.engine.readAddress ≠ .busError) :
    ∃ d n,
      (regionKindAt s.cfg s.engine.readAddress = .memory → s.engine.readAddress ∉ s.trace.raced →
        d = Memory.read s.mem s.engine.readAddress) ∧
      computeStep s =
        .next (State.foldByte { s with portLog := s.portLog ++ [s.engine.readAddress], draws := n } d) := by
  obtain ⟨hk, -⟩ | ⟨hfree, hm⟩ | ⟨-, -, hm⟩ := memRead_cases s s.engine.readAddress
  · exact absurd hk hbus
  · refine ⟨_, _, fun hk hr => ?_, computeStep_of_memRead hi ha hm⟩
    obtain hk' | ⟨-, hr'⟩ := hfree
    · simp [hk] at hk'
    · exact absurd hr' hr
  · exact ⟨_, _, fun _ _ => rfl, computeStep_of_memRead hi ha hm⟩

end

/-- R127: with all bytes folded, the step completes. -/
theorem computeStep_of_count {s : State} (hi : s.engine.cLen.toNat ≤ s.engine.i.toNat) :
    computeStep s = .next s.finishCompute := by
  rw [computeStep, if_neg (Nat.not_lt.2 hi)]

/-- Settles O21: the read port's answer decides the fold step. -/
theorem computeStepFoldsOneByte : Obligations.ComputeStepFoldsOneByte := by
  intro s hq addr
  rw [engineStep_of_computing hq]
  refine ⟨fun hi ha => ⟨fun hk hr => ?_, fun hfree => ?_, fun hk => ?_⟩, computeStep_of_count⟩
  · exact computeStep_of_memRead hi ha (memRead_of_memory hk hr)
  · obtain hk | ⟨hk, hr⟩ := hfree
    · exact computeStep_of_memRead hi ha (memRead_of_device hk)
    · exact computeStep_of_memRead hi ha (memRead_of_raced hk hr)
  · exact (computeStep_busError hi ha hk).trans (congrArg _ (abortCompute_eq rfl))

/-- Everything a COMPUTE engine step leads to: a fold and an abort differ from the state before by the port's records too. -/
theorem computeStep_moves {s t : State} (h : computeStep s = .next t) :
    (∃ log n d, t = State.foldByte { s with portLog := log, draws := n } d) ∨
    (regionKindAt s.cfg s.engine.readAddress = .busError ∧ t = (s.request s.engine.readAddress).abortCompute) ∨
    t = s.finishCompute := by
  obtain ⟨-, -, hc⟩ | ⟨-, -, d, u, hm, hc⟩ | ⟨hi, ha, u, hm, hc⟩ | ⟨-, hc⟩ := computeStep_cases s
  · simp [hc] at h
  · obtain ⟨n, rfl⟩ := memRead_eq hm
    exact .inl ⟨_, n, d, (Host.Outcome.next.inj (hc.symm.trans h)).symm⟩
  · have hk := (memRead_eq_busError_iff hm).1 rfl
    rw [computeStep_busError hi ha hk] at h
    exact .inr (.inl ⟨hk, (Host.Outcome.next.inj h).symm⟩)
  · exact .inr (.inr (Host.Outcome.next.inj (hc.symm.trans h)).symm)

/-- What a COMPUTE never changes (rule R130). -/
structure State.OutsideCompute (t s : State) : Prop where
  table : t.table = s.table
  latched : t.latched = s.latched
  ready : t.status.ready = s.status.ready
  staging : t.staging = s.staging
  args : t.args = s.args
  tblIndex : t.tblIndex = s.tblIndex
  cfg : t.cfg = s.cfg
  host : t.host = s.host
  mem : t.mem = s.mem

theorem exec_compute_outside {s t : State} (h : exec .compute s = .next t) : t.OutsideCompute s := by
  obtain rfl | ⟨code, -, rfl⟩ := exec_compute_moves h <;> constructor <;> simp

theorem computeStep_outside {s t : State} (h : computeStep s = .next t) : t.OutsideCompute s := by
  obtain ⟨log, n, d, rfl⟩ | ⟨-, rfl⟩ | rfl := computeStep_moves h <;> constructor <;> simp

/-- Settles O25: the frames of the acceptance or rejection and of the engine step; a rejection is one recorded error, and an
engine step records one only at a BusError. -/
theorem computeWritesOnlyItsOwn : Obligations.ComputeWritesOnlyItsOwn := by
  intro s t
  refine ⟨fun h => ?_, fun h => ?_, fun h => ?_, fun hq h hbus => ?_⟩
  · obtain rfl | ⟨code, -, rfl⟩ := exec_compute_moves h <;> simp
  · have hout : t.OutsideCompute s :=
      h.elim exec_compute_outside fun ⟨hq, h⟩ => computeStep_outside (engineStep_of_computing hq ▸ h)
    exact ⟨hout.table, hout.latched, hout.ready, hout.staging, hout.args, hout.tblIndex, hout.cfg, hout.host,
      fun a => by rw [hout.mem]⟩
  · obtain rfl | herr := exec_compute_moves h
    · exact .inl rfl
    · exact .inr herr
  · rw [engineStep_of_computing hq] at h
    obtain ⟨_, _, d, rfl⟩ | ⟨hk, -⟩ | rfl := computeStep_moves h
    · exact ⟨rfl, rfl, rfl⟩
    · exact absurd hk hbus
    · exact ⟨rfl, rfl, rfl⟩

/-! ## A COMPUTE run to its RESULT or to its BusError (41_fold_engine.md rules R127, R128; 60_exceptions.md rule R167) -/

/-- Those of `bytes`, read from the address `start` on, that plain memory answers are the ones stored there. -/
def State.Answers (s : State) (start : Nat) (bytes : List Byte) : Prop :=
  ∀ k (h : k < bytes.length), regionKindAt s.cfg (start + k) = .memory → bytes[k] = Memory.read s.mem (start + k)

theorem State.Answers.append {s : State} {start : Nat} {bytes : List Byte} (h : s.Answers start bytes) {d : Byte}
    (hd : regionKindAt s.cfg (start + bytes.length) = .memory → d = Memory.read s.mem (start + bytes.length)) :
    s.Answers start (bytes ++ [d]) := by
  intro k hk hmem
  rw [List.getElem_append]
  split
  · next hlt => exact h k hlt hmem
  · next hge =>
    obtain rfl : k = bytes.length := by simp at hk; omega
    simpa using hd hmem

/-- R127: `engineStep_afterFolds_byte` with the byte folded and the records it leaves. -/
theorem engineStep_afterFolds_fold {a : State} {n : Nat} {crc : Word} {trace : FoldTrace} {draws : Nat}
    (hq : a.engine.seq = .computing) (hn : n < a.engine.cLen.toNat) (hlt : a.engine.rangeStart + n < 2 ^ 32)
    (hbus : regionKindAt a.cfg (a.engine.rangeStart + n) ≠ .busError) :
    ∃ d draws',
      (regionKindAt a.cfg (a.engine.rangeStart + n) = .memory → a.engine.rangeStart + n ∉ trace.raced →
        d = Memory.read a.mem (a.engine.rangeStart + n)) ∧
      engineStep (a.afterFolds n crc trace draws) =
        .next (a.afterFolds (n + 1) (fold a.latched a.table crc d) { trace with folded := trace.folded ++ [d] } draws') := by
  have haddr := afterFolds_readAddress (crc := crc) (trace := trace) (draws := draws) hn.le
  obtain ⟨d, draws', hd, hc⟩ := computeStep_byte_eq (s := a.afterFolds n crc trace draws)
    (by rw [afterFolds_count hn.le]; exact hn) (by rw [haddr]; exact hlt) (by rw [haddr]; exact hbus)
  rw [haddr] at hd
  rw [haddr, portLog_afterFolds_append, foldByte_afterFolds] at hc
  exact ⟨d, draws', hd, (engineStep_afterFolds hq).trans hc⟩

/-- R121, R127: as long as no address answers BusError, the running register of an accepted COMPUTE is that of the bytes its
addresses answered. -/
theorem engineRun_acceptCompute_crcRun {s : State} (ho : s.args.outOfBounds = false) {n : Nat}
    (hn : n ≤ s.args.length.toNat)
    (hbus : ∀ k, k < n → regionKindAt s.cfg (s.args.bufBase.toNat + s.args.offset.toNat + k) ≠ .busError) :
    ∃ bytes draws,
      bytes.length = n ∧ s.Answers (s.args.bufBase.toNat + s.args.offset.toNat) bytes ∧
      engineRun n s.acceptCompute =
        .next
          (s.acceptCompute.afterFolds n (crcRun s.latched s.table bytes) { folded := bytes, raced := [] } draws) := by
  induction n with
  | zero => exact ⟨[], _, rfl, nofun, congrArg _ (acceptCompute_eq_afterFolds s)⟩
  | succ n ih =>
    obtain ⟨bytes, draws, rfl, hbytes, hrun⟩ := ih (by omega) fun k hk => hbus k (by omega)
    obtain ⟨d, draws', hd, hstep⟩ := engineStep_afterFolds_fold (a := s.acceptCompute)
      (crc := crcRun s.latched s.table bytes) (trace := { folded := bytes, raced := [] }) (draws := draws) rfl hn
      (acceptCompute_address_lt ho hn) (hbus _ (by omega))
    refine ⟨bytes ++ [d], draws', by simp, hbytes.append fun hk => hd hk nofun, ?_⟩
    rw [engineRun_succ hrun, hstep, crcRun_append_byte]
    rfl

/-- Settles O22: LENGTH folds by `engineRun_acceptCompute_crcRun`, then the completing step. -/
theorem computeRunsToResult : Obligations.ComputeRunsToResult := by
  intro s hq hr hin hspace hbus
  have ho := outOfBounds_eq_false.2 ⟨hin, hspace⟩
  obtain ⟨bytes, draws, hlen, hbytes, hrun⟩ := engineRun_acceptCompute_crcRun ho le_rfl hbus
  refine ⟨_, _, bytes, exec_compute_of_valid hq hr ho, fun n hn => ?_,
    (engineRun_succ hrun).trans (engineStep_afterFolds_length rfl rfl), hlen, hbytes, rfl, rfl, rfl⟩
  obtain ⟨crc, trace, draws', hrun'⟩ := engineRun_acceptCompute ho hn fun k hk => hbus k (by omega)
  exact ⟨_, hrun', rfl, rfl, rfl⟩

/-- Settles O24: `k` folds by `engineRun_acceptCompute`, then the aborting step, whose error record depends on STATUS alone. -/
theorem busErrorAbortIsPrecise : Obligations.BusErrorAbortIsPrecise := by
  intro s a hq h ha k hk hbus hfirst
  obtain ⟨-, ho, rfl⟩ := execCompute_accepted hq h ha
  obtain ⟨crc, trace, draws, hrun⟩ := engineRun_acceptCompute ho hk.le hfirst
  have hstep := engineStep_afterFolds_busError (crc := crc) (trace := trace) (draws := draws) rfl hk
    (acceptCompute_address_lt ho hk) hbus
  exact ⟨_, ((engineRun_succ hrun).trans hstep).trans (congrArg _ (abortCompute_eq (s := s) rfl)), rfl, rfl⟩

end Sys2Proof.Machine

namespace Sys2Proof.Machine

/-! ## FOLD (41_fold_engine.md rules R120 to R124) -/

theorem tableAt_eq_getElem! (t : Table) (x : Word) : tableAt t x = t[x.toNat % 256]! := by
  rw [getElem!_pos t _ (Nat.mod_lt _ (by decide))]
  simp only [tableAt, BitVec.toNat_setWidth]

/-- The index of a fold: the low byte of the register XOR the byte. -/
theorem tableAt_xor_byte (t : Table) (x : Word) (d : Byte) :
    tableAt t (x ^^^ d.setWidth 32) = t[(x.toNat % 256) ^^^ d.toNat]! := by
  have hd : d.toNat % 2 ^ 8 = d.toNat := Nat.mod_eq_of_lt d.isLt
  have hindex : (x ^^^ d.setWidth 32).toNat % 2 ^ 8 = (x.toNat % 2 ^ 8) ^^^ d.toNat := by
    rw [BitVec.toNat_xor, Nat.xor_mod_two_pow, BitVec.toNat_setWidth, Nat.mod_mod_of_dvd _ (by decide), hd]
  exact (tableAt_eq_getElem! t _).trans (congrArg (t[·]!) hindex)

theorem ushiftRight_toNat (x : Word) (n : Nat) : (x >>> n).toNat = x.toNat / 2 ^ n := by
  rw [BitVec.toNat_ushiftRight, Nat.shiftRight_eq_div_pow]

theorem ushiftRight_eq_ofNat (x : Word) (n : Nat) : x >>> n = BitVec.ofNat 32 (x.toNat / 2 ^ n) := by
  rw [← ushiftRight_toNat, BitVec.ofNat_toNat, BitVec.setWidth_eq]

theorem foldR_eq (l : Latched) (t : Table) (crc : Word) (d : Byte) :
    foldR l t crc d = (t[(crc.toNat % 256) ^^^ d.toNat]! ^^^ BitVec.ofNat 32 (crc.toNat / 256)) &&& l.mask := by
  rw [foldR, tableAt_xor_byte, ushiftRight_eq_ofNat]
  rfl

theorem foldN_eq (l : Latched) (t : Table) (crc : Word) (d : Byte) :
    foldN l t crc d =
      (t[(crc.toNat / 2 ^ (l.w - 8) % 256) ^^^ d.toNat]! ^^^ BitVec.ofNat 32 (crc.toNat * 256)) &&& l.mask := by
  rw [foldN, tableAt_xor_byte, ushiftRight_toNat, shiftLeft_eq_ofNat]
  rfl

/-- Settles O50: a fold is under the mask, and each of the two is its formula on numbers. -/
theorem foldFollowsTheRule : Obligations.FoldFollowsTheRule := by
  intro l t crc d
  constructor
  · rw [← fold_and_mask, BitVec.toNat_and]
    exact Nat.and_le_right
  · rw [fold, foldR_eq, foldN_eq]
    rfl

/-! ## A CRC with REFOUT = 1 over a built table (rules R122, R129) -/

/-- R122: a register that fits a byte has nothing left after the shift by 8. -/
theorem foldR_of_byte {l : Latched} {crc : Word} (hcrc : crc.toNat < 2 ^ 8) (d : Byte) :
    foldR l (builtTable l) crc d = tableEntry l (crc.setWidth 8 ^^^ d) &&& l.mask := by
  have hshift : crc >>> 8 = 0#32 := by
    rw [ushiftRight_eq_ofNat, Nat.div_eq_of_lt hcrc]
  have hindex : (crc ^^^ d.setWidth 32).setWidth 8 = crc.setWidth 8 ^^^ d := by
    rw [BitVec.setWidth_xor, BitVec.setWidth_setWidth_of_le _ (by decide), BitVec.setWidth_eq]
  rw [foldR, hshift, tableAt_builtTable, hindex, BitVec.xor_zero]

section
variable {l : Latched} (hout : l.refout = true)
include hout

theorem fold_of_byte {crc : Word} (hcrc : crc.toNat < 2 ^ 8) (d : Byte) :
    fold l (builtTable l) crc d = tableEntry l (crc.setWidth 8 ^^^ d) &&& l.mask := by
  rw [fold, if_pos hout, foldR_of_byte hcrc]

/-- R122: the running register starts from a reflected byte and stays a table entry. -/
theorem crcRun_lt_of_refout (bytes : List Byte) : (crcRun l (builtTable l) bytes).toNat < 2 ^ 8 := by
  induction bytes using List.reverseRecOn with
  | nil =>
    rw [crcRun_nil, effInit, if_pos hout]
    exact rev8_lt _
  | append_singleton bytes d ih =>
    rw [crcRun_append_byte, fold_of_byte hout ih, tableEntry_and_mask]
    exact tableEntry_lt_of_refout hout _

end

/-- Settles O51: the register fits a byte by induction over the bytes, so its fold is the table entry. -/
theorem reflectedFoldFitsByte : Obligations.ReflectedFoldFitsByte := by
  intro p bytes d hout _ _
  have hcrc := crcRun_lt_of_refout (l := p.latch) hout bytes
  exact ⟨Nat.le_of_lt_succ hcrc, fold_of_byte (l := p.latch) hout hcrc d⟩

/-- Settles O52: FINAL keeps its value under the mask; without bytes the running register is EFF_INIT. -/
theorem resultInRangeAndEmptyInput : Obligations.ResultInRangeAndEmptyInput := by
  intro p t bytes _ hw
  exact ⟨toNat_and_maskOf_lt _ hw, rfl⟩

/-- Without XOROUT, at width 8 and with REFOUT = 1, FINAL changes nothing. -/
theorem final_of_byte {l : Latched} (hxorout : l.xorout = 0#32) (hmask : l.mask = maskOf 8) {crc : Word}
    (hcrc : crc.toNat < 2 ^ 8) : final l crc = crc := by
  refine BitVec.eq_of_toNat_eq ?_
  rw [final, hxorout, hmask, BitVec.xor_zero, BitVec.toNat_and, maskOf_toNat (by decide), Nat.and_two_pow_sub_one_eq_mod,
    Nat.mod_eq_of_lt hcrc]

/-- Settles O53: the running register is the message's CRC, so the last index is that CRC XOR itself, and entry 0 is 0. -/
theorem residueIsZero : Obligations.ResidueIsZero := by
  intro p m hsize _ hout _ hxorout
  have hmask : p.latch.mask = maskOf 8 := by rw [Staging.latch_mask, Staging.w, hsize]; rfl
  have hcrc := crcRun_lt_of_refout (l := p.latch) hout m
  have hfold (d : Byte) := fold_of_byte (l := p.latch) hout hcrc d
  have hzero : tableEntry p.latch 0 = 0 := (tableEntryIsLinear p.latch).1
  have hlast : crcRun p.latch (builtTable p.latch) (m ++ [(crcRun p.latch (builtTable p.latch) m).setWidth 8]) = 0 := by
    rw [crcRun_append_byte, hfold, BitVec.xor_self, tableEntry_and_mask]
    exact hzero
  rw [crcOf, crcOf, final_of_byte (l := p.latch) hxorout hmask hcrc, hlast]
  exact final_of_byte (l := p.latch) hxorout hmask (by decide)

end Sys2Proof.Machine

namespace Sys2Proof.Machine

/-! ## The bit-serial CRC (41_fold_engine.md rule R129 item 5; log 19)

A message byte `d`, moved to the top byte of the width, can be XORed into the register before its eight steps instead of bit by
bit during them. After `j` steps the serial register is then the register so begun XOR the bits of `d` still to come. -/

theorem AgreeBelow.trans {w : Nat} {x y z : Word} (h : AgreeBelow w x y) (h' : AgreeBelow w y z) : AgreeBelow w x z :=
  fun k hk => (h k hk).trans (h' k hk)

theorem AgreeBelow.symm {w : Nat} {x y : Word} (h : AgreeBelow w x y) : AgreeBelow w y x := fun k hk => (h k hk).symm

theorem AgreeBelow.xor {w : Nat} {x x' y y' : Word} (h : AgreeBelow w x x') (h' : AgreeBelow w y y') :
    AgreeBelow w (x ^^^ y) (x' ^^^ y') := fun k hk => by
  rw [BitVec.getLsbD_xor, BitVec.getLsbD_xor, h k hk, h' k hk]

theorem AgreeBelow.and_maskOf (w : Nat) (x : Word) : AgreeBelow w (x &&& maskOf w) x :=
  agreeBelow_iff_and_maskOf.2 (by rw [BitVec.and_assoc, BitVec.and_self])

theorem AgreeBelow.shiftLeft {w n m : Nat} {x y : Word} (h : AgreeBelow n x y) (hw : w ≤ n + m) :
    AgreeBelow w (x <<< m) (y <<< m) := fun k hk => by
  rw [BitVec.getLsbD_shiftLeft, BitVec.getLsbD_shiftLeft]
  by_cases hkm : k < m
  · simp [hkm]
  · rw [h (k - m) (by omega)]

theorem crcSteps_succ (l : Latched) (n : Nat) (r : Word) : crcSteps l (n + 1) r = crcStep l (crcSteps l n r) := by
  rw [crcSteps_eq_iterate, crcSteps_eq_iterate, Function.iterate_succ_apply']

/-- Within the width, the serial step tests the top bit XOR the message bit, shifts and XORs POLY. -/
theorem serialBit_agree (p : Staging) (crc : Word) (b : Bool) :
    AgreeBelow p.w (serialBit p crc b)
      (if crc.getLsbD (p.w - 1) ^^ b then crc <<< 1 ^^^ p.poly else crc <<< 1) := by
  rw [serialBit]
  split
  · exact .xor (.and_maskOf _ _) (.and_maskOf _ _)
  · exact .and_maskOf _ _

/-- The byte `d` with its `j` top bits moved out of the width. -/
def msgShift (p : Staging) (d : Byte) (j : Nat) : Word := d.setWidth 32 <<< (p.w - 8 + j)

theorem msgShift_shiftLeft (p : Staging) (d : Byte) (j : Nat) : msgShift p d j <<< 1 = msgShift p d (j + 1) := by
  rw [msgShift, msgShift, ← BitVec.shiftLeft_add, Nat.add_assoc]

section
variable {p : Staging} (hlow : 8 ≤ p.w)
include hlow

/-- After eight bits no bit of the byte is left. -/
theorem msgShift_eight (d : Byte) : AgreeBelow p.w (msgShift p d 8) 0#32 := fun k hk => by
  rw [msgShift, BitVec.getLsbD_shiftLeft]
  simp [show k < p.w - 8 + 8 by omega]

theorem msgShift_top (hhigh : p.w ≤ 32) (d : Byte) {j : Nat} (hj : j < 8) :
    (msgShift p d j).getLsbD (p.w - 1) = d.getLsbD (7 - j) := by
  rw [msgShift, BitVec.getLsbD_shiftLeft, BitVec.getLsbD_setWidth, show p.w - 1 - (p.w - 8 + j) = 7 - j by omega]
  simp [show p.w - 1 < 32 by omega, show p.w - 8 + j ≤ p.w - 1 by omega, show 7 - j < 32 by omega]

/-- One serial step takes the next bit of the byte: XORed with the top bit, it leaves that of the register begun with the whole
byte. -/
theorem serialBit_step (hhigh : p.w ≤ 32) {c x : Word} {d : Byte} {j : Nat} (hj : j < 8)
    (h : AgreeBelow p.w c (x ^^^ msgShift p d j)) :
    AgreeBelow p.w (serialBit p c (d.getLsbD (7 - j))) (crcStep p.latch x ^^^ msgShift p d (j + 1)) := by
  have htop : (c.getLsbD (p.w - 1) ^^ d.getLsbD (7 - j)) = x.getLsbD (p.w - 1) := by
    rw [h (p.w - 1) (by omega), BitVec.getLsbD_xor, msgShift_top hlow hhigh d hj, Bool.xor_assoc, Bool.xor_self,
      Bool.xor_false]
  have hshift : AgreeBelow p.w (c <<< 1) (x <<< 1 ^^^ msgShift p d (j + 1)) := by
    rw [← msgShift_shiftLeft, ← BitVec.shiftLeft_xor_distrib]
    exact h.shiftLeft (Nat.le_add_right _ _)
  refine (serialBit_agree p c _).trans ?_
  rw [htop, crcStep_eq, Staging.latch_w]
  split
  · have := hshift.xor (.refl p.w p.poly)
    rwa [BitVec.xor_assoc, BitVec.xor_comm (msgShift _ _ _), ← BitVec.xor_assoc] at this
  · exact hshift

/-- The serial byte is eight steps of the register begun with the byte at the top of the width. -/
theorem serialByte_agree (hhigh : p.w ≤ 32) (c : Word) (d : Byte) :
    AgreeBelow p.w (serialByte p c d) (crcSteps p.latch 8 (c ^^^ msgShift p d 0)) := by
  have hbits : ∀ n ≤ 8, AgreeBelow p.w ((List.range n).foldl (fun c j => serialBit p c (d.getLsbD (7 - j))) c)
      (crcSteps p.latch n (c ^^^ msgShift p d 0) ^^^ msgShift p d n) := by
    intro n hn
    induction n with
    | zero =>
      rw [crcSteps, BitVec.xor_assoc, BitVec.xor_self, BitVec.xor_zero]
      exact .refl _ _
    | succ n ih =>
      rw [List.range_succ, List.foldl_append, crcSteps_succ]
      exact serialBit_step hlow hhigh hn (ih (by omega))
  have hlast := (hbits 8 le_rfl).trans (.xor (.refl _ _) (msgShift_eight hlow d))
  rwa [BitVec.xor_zero] at hlast

theorem tableSeed_eq_msgShift (hin : p.refin = false) (b : Byte) : tableSeed p.latch b = msgShift p b 0 := by
  rw [tableSeed, Staging.latch_refin, hin, if_neg Bool.false_ne_true, Staging.latch_w, msgShift, Nat.add_zero]
  split
  · rfl
  · rw [Nat.sub_eq_zero_of_le (by omega), BitVec.shiftLeft_zero]

/-- The register begun with a byte is the index of its fold, at the top of the width, and the register's lower bits. -/
theorem msgShift_xor_low (hhigh : p.w ≤ 32) (c : Word) (d : Byte) :
    AgreeBelow p.w
      (msgShift p ((c >>> (p.w - 8) ^^^ d.setWidth 32).setWidth 8) 0 ^^^ (c &&& maskOf (p.w - 8)))
      (c ^^^ msgShift p d 0) := fun k hk => by
  simp only [msgShift, BitVec.getLsbD_xor, BitVec.getLsbD_and, BitVec.getLsbD_shiftLeft, BitVec.getLsbD_setWidth,
    BitVec.getLsbD_ushiftRight, maskOf_getLsbD, Nat.add_zero]
  by_cases hlt : k < p.w - 8
  · simp [hlt, show k < 32 by omega]
  · simp [hlt, show p.w - 8 + (k - (p.w - 8)) = k by omega, show k - (p.w - 8) < 8 by omega,
      show k - (p.w - 8) < 32 by omega, show k < 32 by omega]

/-- FOLD_N over the built table is eight steps of the register begun with the byte at the top of the width. -/
theorem foldN_agree (hhigh : p.w ≤ 32) (hin : p.refin = false) (hout : p.refout = false) (c : Word) (d : Byte) :
    AgreeBelow p.w (foldN p.latch (builtTable p.latch) c d) (crcSteps p.latch 8 (c ^^^ msgShift p d 0)) := by
  have hentry (b : Byte) : AgreeBelow p.w (tableEntry p.latch b) (crcSteps p.latch 8 (msgShift p b 0)) := by
    rw [tableEntry, tableWork, Staging.latch_refout, hout, tableSeed_eq_msgShift hlow hin]
    exact .and_maskOf _ _
  have hrest : AgreeBelow p.w (c <<< 8) (crcSteps p.latch 8 (c &&& maskOf (p.w - 8))) := by
    rw [crcSteps_eq_shiftLeft]
    · exact (AgreeBelow.and_maskOf (p.w - 8) c).symm.shiftLeft (by omega)
    · intro k hk
      rw [Staging.latch_w] at hk
      rw [BitVec.getLsbD_and, maskOf_getLsbD, decide_eq_false (by omega), Bool.false_and, Bool.and_false]
  have hbegun := (msgShift_xor_low hlow hhigh c d).crcSteps (l := p.latch) (l' := p.latch) rfl (by rw [Staging.latch_w]; omega)
    (.refl _ _) 8
  rw [crcSteps_xor] at hbegun
  rw [foldN, tableAt_builtTable]
  exact (AgreeBelow.and_maskOf _ _).trans (((hentry _).xor hrest).trans hbegun)

/-- Fold after fold, the running register is the serial one within the width. -/
theorem crcRun_agree_serial (hhigh : p.w ≤ 32) (hin : p.refin = false) (hout : p.refout = false) (bytes : List Byte) :
    AgreeBelow p.w (crcRun p.latch (builtTable p.latch) bytes)
      (bytes.foldl (serialByte p) (p.init &&& maskOf p.w)) := by
  induction bytes using List.reverseRecOn with
  | nil =>
    rw [crcRun_nil, effInit, Staging.latch_refout, hout]
    exact (AgreeBelow.and_maskOf _ _).symm
  | append_singleton bytes d ih =>
    have hfold : fold p.latch (builtTable p.latch) = foldN p.latch (builtTable p.latch) := by
      funext crc d
      rw [fold, Staging.latch_refout, hout, if_neg Bool.false_ne_true]
    rw [crcRun_append_byte, List.foldl_append, hfold, ih.foldN (l := p.latch) hlow p.latch_mask]
    exact (foldN_agree hlow hhigh hin hout _ d).trans (serialByte_agree hlow hhigh _ d).symm

end

/-- Settles O54: FINAL of registers that agree within the width. -/
theorem tableCrcEqualsBitSerial : Obligations.TableCrcEqualsBitSerial := by
  intro p bytes hin hout hlow hhigh
  exact final_latch_congr rfl (crcRun_agree_serial hlow hhigh hin hout bytes) (.refl _ _)

end Sys2Proof.Machine

namespace Sys2Proof.Machine

/-! ## NOP and the illegal words (42_control_and_access.md rules R140, R141) -/

/-- R74, R141: a word that is no command's own word records BAD_CMD, whatever the engine is doing. -/
theorem dispatch_of_ne_encode (s : State) {v : Word} (hv : ∀ i, v ≠ encode i) :
    dispatch s v = .next (s.raiseError .badCmd) := by
  cases hd : decode v with
  | command i => exact absurd (eq_encode_of_decode hd) (hv i)
  | illegal why => rw [dispatch, hd]

/-- Settles O8: the words of the two other commands have OPCODE 1 and 2, so a word with OPCODE 0 is NOP's or illegal. -/
theorem nopChangesNothing : Obligations.NopChangesNothing := by
  intro s
  refine ⟨rfl, dispatch_zero s, fun v hv hop => dispatch_of_ne_encode s ?_⟩
  rintro i rfl
  cases i with
  | nop => exact hv rfl
  | build => exact absurd hop (by decide)
  | compute => exact absurd hop (by decide)

/-- R163: the first error sets ERR and ERR_CODE. -/
theorem raiseError_of_first {s : State} (he : s.status.err = false) (code : ErrCode) :
    s.raiseError code = { s with status := { s.status with err := true, errCode := code } } := by
  rw [State.raiseError, he, if_neg Bool.false_ne_true]

/-- R163: a further error sets ERR_LOST. -/
theorem raiseError_of_further {s : State} (he : s.status.err = true) (code : ErrCode) :
    s.raiseError code = { s with status := { s.status with errLost := true } } := by
  rw [State.raiseError, if_pos he]

theorem flagBit_eq_zero_iff {b : Bool} {n : Nat} (hn : n < 32) : flagBit b n = 0#32 ↔ b = false := by
  refine ⟨fun h => ?_, fun h => by rw [h]; rfl⟩
  simpa [flagBit_getLsbD_of_lt b hn] using congrArg (·.getLsbD n) h

/-- R30: where STATUS reads 0, every flag is 0. -/
theorem flags_of_statusWord_eq_zero {s : State} (h : s.statusWord = 0#32) :
    s.busy = false ∧ s.status.ready = false ∧ s.status.done = false ∧ s.status.err = false ∧
      s.status.errLost = false ∧ s.latched.refl8Warn = false := by
  simp only [State.statusWord, BitVec.or_eq_zero_iff, flagBit_eq_zero_iff (show 0 < 32 by decide),
    flagBit_eq_zero_iff (show 1 < 32 by decide), flagBit_eq_zero_iff (show 2 < 32 by decide),
    flagBit_eq_zero_iff (show 3 < 32 by decide), flagBit_eq_zero_iff (show 8 < 32 by decide),
    flagBit_eq_zero_iff (show 9 < 32 by decide)] at h
  obtain ⟨⟨⟨⟨⟨⟨hbusy, hready⟩, hdone⟩, herr⟩, -⟩, hlost⟩, hwarn⟩ := h
  exact ⟨hbusy, hready, hdone, herr, hlost, hwarn⟩

/-- R30, R163: where STATUS reads 0, an error leaves ERR and its code in it, and nothing else. -/
theorem raiseError_statusWord_of_zero {s : State} (h : s.statusWord = 0#32) (code : ErrCode) :
    (s.raiseError code).statusWord = 8#32 ||| code.code.setWidth 32 <<< 4 := by
  obtain ⟨hbusy, hready, hdone, herr, hlost, hwarn⟩ := flags_of_statusWord_eq_zero h
  have hbusy' : (s.raiseError code).busy = false := by
    rw [State.busy, State.raiseError_engine]
    exact hbusy
  rw [State.statusWord, hbusy', State.raiseError_latched, raiseError_of_first herr, hready, hdone, hlost, hwarn]
  simp [flagBit]

/-- Settles O9: 0, 1 and 2 are the words of the three commands, so any other records BAD_CMD. -/
theorem illegalWordRecordsBadCmd : Obligations.IllegalWordRecordsBadCmd := by
  intro s v h0 h1 h2
  have hd : dispatch s v = .next (s.raiseError .badCmd) := by
    refine dispatch_of_ne_encode s fun i => ?_
    cases i with
    | nop => exact h0
    | build => exact h1
    | compute => exact h2
  refine ⟨fun he => ?_, fun he => ?_, fun hz => ⟨_, hd, raiseError_statusWord_of_zero hz .badCmd⟩⟩
  · rw [hd, raiseError_of_first he]
  · rw [hd, raiseError_of_further he]

/-! ## Register writes at the offsets of the window (42_control_and_access.md rule R143) -/

/-- R30: a STATUS write touches the STATUS bits only. -/
theorem writeStatus_eq (s : State) (v : Word) : s.writeStatus v = { s with status := (s.writeStatus v).status } := by
  unfold State.writeStatus
  split <;> split <;> rfl

/-- R25: a write at a register's offset is a write to the register. -/
theorem portAccess_write_offsetOf (s : State) (reg : Reg) (v : Word) :
    s.portAccess (offsetOf reg) (.write v) = s.writeReg reg v := by
  rw [State.portAccess, regAt_offsetOf]

/-- The registers a write does not change: RESULT, TBL_DATA, MASK, CFG*, reserved. -/
def readOnlyRegs : List Reg := [.result, .tblData, .mask, .cfg, .cfgPoly, .cfgInit, .cfgXorout, .reserved]

theorem writeReg_of_readOnly (s : State) {reg : Reg} (hreg : reg ∈ readOnlyRegs) (v : Word) :
    s.writeReg reg v = .next s := by
  fin_cases hreg <;> rfl

theorem regAt_mem_readOnlyRegs :
    ∀ {off : BitVec 8}, off.toNat % 4 = 0 → off = 0x2C ∨ 0x34 ≤ off.toNat → regAt off ∈ readOnlyRegs := by
  decide

/-- Settles O31: every offset named is that of a register; the others are the offsets of read-only registers. -/
theorem registerWriteEffects : Obligations.RegisterWriteEffects := by
  intro s v
  have hwrite (reg : Reg) := portAccess_write_offsetOf s reg v
  refine ⟨hwrite .cmd, ⟨s.writeStatus v, hwrite .status, writeStatus_eq s v, State.writeStatus_ready s v,
    writeStatus_done s v, ?_⟩, (hwrite .width).trans ?_, hwrite .mode, hwrite .poly, hwrite .init, hwrite .xorout,
    hwrite .bufBase, hwrite .bufSize, hwrite .offset, hwrite .length, (hwrite .tblIndex).trans ?_, fun off hmod hoff => ?_⟩
  · cases hv : v.getLsbD 3 with
    | true => simp [writeStatus_status_of_clear s hv]
    | false => simp [writeStatus_status_of_keep s hv]
  · rw [State.writeReg, BitVec.setWidth_eq_extractLsb' (show 6 ≤ 32 by decide)]
  · rw [State.writeReg, BitVec.setWidth_eq_extractLsb' (show 8 ≤ 32 by decide)]
  · exact writeReg_of_readOnly s (regAt_mem_readOnlyRegs hmod hoff) v

end Sys2Proof.Machine

namespace Sys2Proof.Machine

/-! ## The checks at a CMD write (60_exceptions.md rule R166) -/

/-- R144: a CMD write of a command's word is the command's effect. -/
theorem dispatch_of_command {v : Word} {i : Instr} (hd : decode v = .command i) (s : State) : dispatch s v = exec i s := by
  rw [dispatch, hd]

/-- R166 step 3: a busy engine rejects every command but NOP. -/
theorem exec_of_busy {s : State} (hq : s.engine.seq ≠ .idle) {i : Instr} (hi : i ≠ .nop) :
    exec i s = .next (s.raiseError .busy) := by
  cases i with
  | nop => exact absurd rfl hi
  | build => exact if_pos (busy_eq_true.2 hq)
  | compute => exact if_pos (busy_eq_true.2 hq)

/-- R166 step 5: an IDLE engine without a table rejects COMPUTE. -/
theorem exec_compute_of_notReady {s : State} (hq : s.engine.seq = .idle) (hr : s.status.ready = false) :
    exec .compute s = .next (s.raiseError .notReady) := by
  obtain ⟨hne, -⟩ | ⟨-, -, he⟩ | ⟨-, hr', -⟩ | ⟨-, hr', -⟩ := execCompute_cases s
  · exact absurd hq hne
  · exact he
  · simp [hr] at hr'
  · simp [hr] at hr'

/-- R166 step 5: an IDLE and READY engine rejects a COMPUTE whose range fails the checks. -/
theorem exec_compute_of_outOfBounds {s : State} (hq : s.engine.seq = .idle) (hr : s.status.ready = true)
    (ho : s.args.outOfBounds = true) : exec .compute s = .next (s.raiseError .bounds) := by
  obtain ⟨hne, -⟩ | ⟨-, hr', -⟩ | ⟨-, -, -, he⟩ | ⟨-, -, ho', -⟩ := execCompute_cases s
  · exact absurd hq hne
  · simp [hr] at hr'
  · exact he
  · simp [ho] at ho'

/-- R105: a check of BUILD fails. -/
theorem configError_eq_true_iff {s : State} : s.configError = true ↔
    (s.staging.w < 1 ∨ 32 < s.staging.w) ∨
      s.cfg.paramCheck = .reject ∧
        (s.staging.poly ||| s.staging.init ||| s.staging.xorout) &&& ~~~ maskOf s.staging.w ≠ 0 := by
  rw [← Bool.not_eq_false, configError_eq_false_iff]
  simp only [← and_assoc, not_and_or, not_le, Classical.not_imp, ne_eq]

/-- R126: a sum check of COMPUTE fails. -/
theorem outOfBounds_eq_true {p : Args} : p.outOfBounds = true ↔
    p.bufSize.toNat < p.offset.toNat + p.length.toNat ∨ 2 ^ 32 < p.bufBase.toNat + p.bufSize.toNat := by
  rw [← Bool.not_eq_false, outOfBounds_eq_false, not_and_or, not_le, not_le]

/-- Settles O10: what the word decodes to selects the command, whose checks then follow in the order of the rule. -/
theorem commandCheckOrder : Obligations.CommandCheckOrder := by
  intro s v
  refine ⟨fun why hd => ?illegal, fun hd => dispatch_of_command hd s, ?busy, fun hd hq => ?build, fun hd hq => ?compute⟩
  case illegal => rw [dispatch, hd]
  case busy =>
    rintro (hd | hd) hq
    · exact (dispatch_of_command hd s).trans (exec_of_busy hq nofun)
    · exact (dispatch_of_command hd s).trans (exec_of_busy hq nofun)
  case build =>
    rw [dispatch_of_command hd]
    refine ⟨fun hwidth => ?_, fun hpos hle => ⟨fun hreject hexcess => ?_, fun hclean => ?_⟩⟩
    · exact exec_build_of_invalid hq (configError_eq_true_iff.2 (.inl hwidth))
    · exact exec_build_of_invalid hq (configError_eq_true_iff.2 (.inr ⟨hreject, hexcess⟩))
    · exact exec_build_of_valid hq (configError_eq_false_iff.2 ⟨hpos, hle, hclean⟩)
  case compute =>
    rw [dispatch_of_command hd]
    refine ⟨exec_compute_of_notReady hq, fun hr => ⟨fun hout => ?_, fun hout => ?_, fun hin hspace => ?_⟩⟩
    · exact exec_compute_of_outOfBounds hq hr (outOfBounds_eq_true.2 (.inl hout))
    · exact exec_compute_of_outOfBounds hq hr (outOfBounds_eq_true.2 (.inr hout))
    · exact exec_compute_of_valid hq hr (outOfBounds_eq_false.2 ⟨hin, hspace⟩)

/-! ## The error record (60_exceptions.md rule R163) -/

/-- Once ERR is set, any further errors set ERR_LOST and change nothing else. -/
theorem foldl_raiseError_of_err {s : State} (he : s.status.err = true) (codes : List ErrCode) :
    codes.foldl State.raiseError s =
      { s with status := { s.status with errLost := s.status.errLost || decide (codes ≠ []) } } := by
  induction codes generalizing s with
  | nil => simp
  | cons code codes ih =>
    rw [List.foldl_cons, raiseError_of_further he, ih (by exact he)]
    simp

/-- Settles O15: ERR = 0 makes the error the first one, ERR = 1 a further one. -/
theorem raiseErrorRecords : Obligations.RaiseErrorRecords :=
  fun _ code => ⟨fun he => raiseError_of_first he code, fun he => raiseError_of_further he code⟩

/-- Settles O16: the first error sets ERR, and with ERR set the others only set ERR_LOST. -/
theorem firstErrorIsKept : Obligations.FirstErrorIsKept := by
  intro s first later he hlost
  rw [List.foldl_cons, raiseError_of_first he, foldl_raiseError_of_err rfl, hlost, Bool.false_or]

end Sys2Proof.Machine

namespace Sys2Proof.Machine

/-! ## A busy engine past the end of the schedule (70_reset_and_hazards.md rule R190; log 3, log 14) -/

/-- No command word touches the host's side. -/
theorem dispatch_host {s t : State} {v : Word} (h : dispatch s v = .next t) : t.host = s.host := by
  obtain ⟨-, hd⟩ | ⟨code, -, hd⟩ | ⟨-, -, -, hd⟩ | ⟨-, -, -, -, hd⟩ := dispatch_cases s v <;> rw [hd] at h <;> cases h
  · rfl
  · exact State.raiseError_host s code
  · exact State.acceptBuild_host s
  · exact State.acceptCompute_host s

/-- R61: every step uses up one turn of the schedule and changes nothing else of it. -/
theorem step_schedule {s t : State} (h : step s = .next t) : t.host.schedule = s.host.schedule.tail := by
  cases step_moves h
  case folded hm ht =>
    obtain ⟨-, -, -, -, -, -, -, -, -, -, -, -, hhost⟩ := memRead_frame hm
    rw [ht, State.foldByte_host, hhost, State.takeTurn_host]
  case aborted hm ht =>
    obtain ⟨-, -, -, -, -, -, -, -, -, -, -, -, hhost⟩ := memRead_frame hm
    rw [ht, State.abortCompute_host, hhost, State.takeTurn_host]
  case polled ht => obtain rfl | rfl := ht <;> rfl
  case command ht => rw [dispatch_host ht, State.dropOp_host, State.takeTurn_host]
  all_goals next ht => subst ht; simp

/-- The engine steps that the running command has left when no read answers BusError. -/
def Engine.stepsLeft (e : Engine) : Nat :=
  match e.seq with
  | .idle => 0
  | .building => 256 - e.idx.toNat
  | .computing => e.cLen.toNat - e.i.toNat + 1

theorem stepsLeft_of_building {e : Engine} (hq : e.seq = .building) : e.stepsLeft = 256 - e.idx.toNat := by
  rw [Engine.stepsLeft, hq]

theorem stepsLeft_of_computing {e : Engine} (hq : e.seq = .computing) :
    e.stepsLeft = e.cLen.toNat - e.i.toNat + 1 := by
  rw [Engine.stepsLeft, hq]

/-- R108: an entry before the last leaves a BUILD one step less. -/
theorem stepsLeft_writeEntry {s : State} (hq : s.engine.seq = .building) (hi : s.engine.idx.toNat < 255) (b : Byte) :
    (s.writeEntry b).engine.stepsLeft + 1 = s.engine.stepsLeft := by
  have hsucc : (s.engine.idx + 1).toNat = s.engine.idx.toNat + 1 := by bv_omega
  have hleft : (s.writeEntry b).engine.stepsLeft = 256 - (s.engine.idx + 1).toNat := stepsLeft_of_building hq
  rw [hleft, stepsLeft_of_building hq, hsucc]
  omega

/-- R127: a fold leaves a COMPUTE one step less. -/
theorem stepsLeft_foldByte {s : State} (hq : s.engine.seq = .computing)
    (hi : s.engine.i.toNat < s.engine.cLen.toNat) (d : Byte) :
    (s.foldByte d).engine.stepsLeft + 1 = s.engine.stepsLeft := by
  have hsucc : (s.engine.i + 1).toNat = s.engine.i.toNat + 1 := by bv_omega
  have hleft : (s.foldByte d).engine.stepsLeft = s.engine.cLen.toNat - (s.engine.i + 1).toNat + 1 :=
    stepsLeft_of_computing hq
  rw [hleft, stepsLeft_of_computing hq, hsucc]
  omega

/-- A step of a BUILD ends it when one step is left, and otherwise leaves it one step less. -/
theorem step_building_stepsLeft {s t : State} (hq : s.Engages .building) (h : step s = .next t) :
    (t.engine.seq = .idle ∧ s.engine.stepsLeft = 1) ∨
      (t.engine.seq = .building ∧ t.engine.stepsLeft + 1 = s.engine.stepsLeft) := by
  obtain ⟨hi, rfl⟩ | ⟨hi, rfl⟩ := step_building hq h
  · exact .inr ⟨hq.2, stepsLeft_writeEntry (s := s.takeTurn) hq.2 hi _⟩
  · exact .inl ⟨rfl, by rw [stepsLeft_of_building hq.2, hi]⟩

/-- A step of a COMPUTE ends it, by completion or abort, or leaves it one step less. -/
theorem step_computing_stepsLeft {s t : State} (hq : s.Engages .computing) (h : step s = .next t) :
    t.engine.seq = .idle ∨ (t.engine.seq = .computing ∧ t.engine.stepsLeft + 1 = s.engine.stepsLeft) := by
  obtain ⟨hi, u, hu, ⟨d, rfl⟩ | rfl⟩ | ⟨-, rfl⟩ := step_computing hq h
  · have hseq : u.engine.seq = .computing := hu.engine ▸ hq.2
    exact .inr ⟨hseq, hu.engine ▸ stepsLeft_foldByte hseq (hu.engine ▸ hi) d⟩
  · exact .inl (by rw [State.abortCompute_engine])
  · exact .inl rfl

/-- Past the end of the schedule the next step is one of the busy engine's. -/
theorem engages_of_schedule_nil {s : State} (hs : s.host.schedule = []) (hq : s.engine.seq ≠ .idle) :
    s.Engages s.engine.seq :=
  ⟨by rw [nextAgent_of_nil hs, busy_eq_true.2 hq, if_pos rfl], rfl⟩

/-- Under the invariant the engine's turn goes on. -/
theorem step_next_of_engages {s : State} {q : Seq} (h : s.Inv) (hq : s.Engages q) : ∃ t, step s = .next t := by
  rw [step_of_engages hq]
  exact engineStep_next (Inv.takeTurn h)

/-- A step taken by a busy engine makes it IDLE, as the last step of a BUILD does, or leaves its command one step less. -/
theorem step_busy_stepsLeft {s t : State} (hq : s.Engages s.engine.seq) (hbusy : s.engine.seq ≠ .idle)
    (h : step s = .next t) :
    (t.engine.seq = .idle ∧ 1 ≤ s.engine.stepsLeft ∧ (s.engine.seq = .building → s.engine.stepsLeft = 1)) ∨
      (t.engine.seq = s.engine.seq ∧ t.engine.stepsLeft + 1 = s.engine.stepsLeft) := by
  cases hseq : s.engine.seq with
  | idle => exact absurd hseq hbusy
  | building =>
    obtain ⟨hidle, hleft⟩ | hless := step_building_stepsLeft (hseq ▸ hq) h
    · exact .inl ⟨hidle, hleft.ge, fun _ => hleft⟩
    · exact .inr hless
  | computing =>
    obtain hidle | hless := step_computing_stepsLeft (hseq ▸ hq) h
    · exact .inl ⟨hidle, by rw [stepsLeft_of_computing hseq]; exact Nat.le_add_left 1 _, nofun⟩
    · exact .inr hless

theorem stepRun_succ_of_next {n : Nat} {s t : State} (h : step s = .next t) : stepRun (n + 1) s = stepRun n t := by
  rw [stepRun, h]

/-- Past the end of the schedule a busy engine is IDLE after at most the steps left, and a BUILD takes them all. -/
theorem stepRun_idle {s : State} (h : s.Inv) (hs : s.host.schedule = []) (hbusy : s.engine.seq ≠ .idle) :
    ∃ n t, stepRun n s = .next t ∧ t.engine.seq = .idle ∧ n ≤ s.engine.stepsLeft ∧
      (s.engine.seq = .building → n = s.engine.stepsLeft) := by
  induction hk : s.engine.stepsLeft using Nat.strong_induction_on generalizing s with
  | _ k ih =>
    have hq := engages_of_schedule_nil hs hbusy
    obtain ⟨t, ht⟩ := step_next_of_engages h hq
    obtain ⟨hidle, hpos, hlast⟩ | ⟨hseq, hless⟩ := step_busy_stepsLeft hq hbusy ht
    · exact ⟨1, t, stepRun_succ_of_next ht, hidle, hk ▸ hpos, fun hb => hk ▸ (hlast hb).symm⟩
    · have hnil : t.host.schedule = [] := by rw [step_schedule ht, hs, List.tail_nil]
      obtain ⟨n, u, hrun, hidle, hle, hall⟩ :=
        ih t.engine.stepsLeft (by omega) (stepKeepsInvariant s t h ht) hnil (hseq ▸ hbusy) rfl
      refine ⟨n + 1, u, (stepRun_succ_of_next ht).trans hrun, hidle, by omega, fun hb => ?_⟩
      rw [hall (hseq.trans hb), hless, hk]

/-- Settles O59: `stepRun_idle` with the steps left written out for a BUILD and for a COMPUTE. -/
theorem busyEngineReturnsToIdle : Obligations.BusyEngineReturnsToIdle := by
  intro s h hs hbusy
  obtain ⟨n, t, hrun, hidle, hle, hall⟩ := stepRun_idle h hs hbusy
  refine ⟨n, t, hrun, hidle, fun hb => ?_, fun hc => ?_⟩
  · rw [hall hb, stepsLeft_of_building hb]
  · exact hle.trans_eq (stepsLeft_of_computing hc)

end Sys2Proof.Machine
